-- ==== Sys2Proof/Word.lean ====
section
/-! DEFINITION. The word types of QRE: bus words, bytes (field elements, buffer bytes) and bus offsets. -/

namespace Sys2Proof

/-- A 32-bit bus word, register value or command word (10_state.md R30, 20_memory.md R86, 30_encoding.md R110). -/
abbrev Word := BitVec 32

/-- An 8-bit value: a field element, a coefficient or a buffer byte (00_scope.md R7, 10_state.md R43, R48, R49). -/
abbrev Byte := BitVec 8

/-- A 14-bit byte offset of the bus (20_memory.md R80). -/
abbrev Addr := BitVec 14

end Sys2Proof
end

