-- ==== Sys2Proof/Syntax.lean ====
section
/-! DEFINITION. The commands of QRE, one constructor per row of spec/opcode_table.json (30_encoding.md R117). -/

namespace Sys2Proof

/-- The number of a polynomial register, P0 to P3 (10_state.md R43). Every 2-bit register field names one of them
(30_encoding.md R111), so the type has exactly these four values. -/
inductive PReg where
  | p0 | p1 | p2 | p3
  deriving DecidableEq, Repr

/-- A command. Register operands stand in the order PD, PA, PB, as far as the command uses them (30_encoding.md R120).
Numeric operands are not in the word: they come from ARG0 to ARG3 (30_encoding.md R113). -/
inductive Instr where
  /-- NOP (40_galois_field.md R140). -/
  | nop
  /-- GEXP, field exponent (40_galois_field.md R141). -/
  | gexp
  /-- GLOG, field logarithm (40_galois_field.md R142). -/
  | glog
  /-- GMUL, field multiply (40_galois_field.md R143). -/
  | gmul
  /-- PCLR PD, clear (41_polynomial.md R162). -/
  | pclr (pd : PReg)
  /-- PPUSH PD, append a coefficient (41_polynomial.md R163). -/
  | ppush (pd : PReg)
  /-- PNORM PD, construct with shift (41_polynomial.md R164). -/
  | pnorm (pd : PReg)
  /-- PGET PA, read a coefficient (41_polynomial.md R165). -/
  | pget (pa : PReg)
  /-- PLEN PA, read the length (41_polynomial.md R166). -/
  | plen (pa : PReg)
  /-- PMOV PD, PA, copy (41_polynomial.md R167). -/
  | pmov (pd pa : PReg)
  /-- PMUL PD, PA, PB, polynomial multiply (41_polynomial.md R168). -/
  | pmul (pd pa pb : PReg)
  /-- PMOD PD, PA, PB, polynomial remainder (41_polynomial.md R169). -/
  | pmod (pd pa pb : PReg)
  /-- PGEN PD, generator polynomial (41_polynomial.md R171). -/
  | pgen (pd : PReg)
  /-- PEVAL PA, evaluate at a point (41_polynomial.md R172). -/
  | peval (pa : PReg)
  /-- BBCLR, clear the bit buffer (42_bit_buffer.md R190). -/
  | bbclr
  /-- BBPUT, append an N-bit value (42_bit_buffer.md R191). -/
  | bbput
  /-- BBBIT, append one bit (42_bit_buffer.md R192). -/
  | bbbit
  /-- BBLEN, bit length (42_bit_buffer.md R193). -/
  | bblen
  /-- BBGET, random-access bit read (42_bit_buffer.md R194). -/
  | bbget
  /-- SEG, encode one segment (42_bit_buffer.md R199). -/
  | seg
  /-- FINAL, terminate and pad to capacity (42_bit_buffer.md R205). -/
  | final
  /-- BLKCLR, clear the block list (43_reed_solomon.md R231). -/
  | blkclr
  /-- BLKADD, append blocks (43_reed_solomon.md R232). -/
  | blkadd
  /-- BLKSEL, select the table layout of a version and level (43_reed_solomon.md R233). -/
  | blksel
  /-- CAPBITS, capacity in bits (43_reed_solomon.md R234). -/
  | capbits
  /-- RSBLK PD, EC codewords of one block (43_reed_solomon.md R235). -/
  | rsblk (pd : PReg)
  /-- RSRUN, encode all blocks and interleave (43_reed_solomon.md R236). -/
  | rsrun
  /-- RSSYN PD, PA, RS syndromes (43_reed_solomon.md R238). -/
  | rssyn (pd pa : PReg)
  /-- FMTENC, encode format information (44_format_info.md R262). -/
  | fmtenc
  /-- FMTCHK, check and decode a format word (44_format_info.md R263). -/
  | fmtchk
  deriving DecidableEq, Repr

end Sys2Proof
end

