-- ==== Sys2Proof/WellFormed.lean ====
section
/-! DEFINITION. Well-formedness of command words: the opcode map of 30_encoding.md R117 as mask and match rows, and the
three checks that R112 makes on a word. A term of `Instr` needs no check of its own: a register operand is one of the
four values of `PReg` (R111). -/

namespace Sys2Proof

/-- One row of the opcode map: a word is this row's command if `w &&& mask = pattern` (30_encoding.md R112, R117). -/
structure OpcodeRow where
  mnemonic : String
  pattern : Word
  mask : Word
  deriving DecidableEq, Repr

/-- Rows of the control and GF commands (30_encoding.md R117). -/
def opcodeRowsField : List OpcodeRow := [
  ⟨"NOP", 0x00000000#32, 0xFFFFFFFF#32⟩,
  ⟨"GEXP", 0x00000010#32, 0xFFFFFFFF#32⟩,
  ⟨"GLOG", 0x00000011#32, 0xFFFFFFFF#32⟩,
  ⟨"GMUL", 0x00000012#32, 0xFFFFFFFF#32⟩]

/-- Rows of the polynomial unit (30_encoding.md R117). -/
def opcodeRowsPoly : List OpcodeRow := [
  ⟨"PCLR", 0x00000020#32, 0xFFFFFCFF#32⟩,
  ⟨"PPUSH", 0x00000021#32, 0xFFFFFCFF#32⟩,
  ⟨"PNORM", 0x00000022#32, 0xFFFFFCFF#32⟩,
  ⟨"PGET", 0x00000023#32, 0xFFFFF3FF#32⟩,
  ⟨"PLEN", 0x00000024#32, 0xFFFFF3FF#32⟩,
  ⟨"PMOV", 0x00000025#32, 0xFFFFF0FF#32⟩,
  ⟨"PMUL", 0x00000026#32, 0xFFFFC0FF#32⟩,
  ⟨"PMOD", 0x00000027#32, 0xFFFFC0FF#32⟩,
  ⟨"PGEN", 0x00000028#32, 0xFFFFFCFF#32⟩,
  ⟨"PEVAL", 0x00000029#32, 0xFFFFF3FF#32⟩]

/-- Rows of the pack sequencer (30_encoding.md R117). -/
def opcodeRowsPack : List OpcodeRow := [
  ⟨"BBCLR", 0x00000030#32, 0xFFFFFFFF#32⟩,
  ⟨"BBPUT", 0x00000031#32, 0xFFFFFFFF#32⟩,
  ⟨"BBBIT", 0x00000032#32, 0xFFFFFFFF#32⟩,
  ⟨"BBLEN", 0x00000033#32, 0xFFFFFFFF#32⟩,
  ⟨"BBGET", 0x00000034#32, 0xFFFFFFFF#32⟩,
  ⟨"SEG", 0x00000035#32, 0xFFFFFFFF#32⟩,
  ⟨"FINAL", 0x00000036#32, 0xFFFFFFFF#32⟩]

/-- Rows of the RS encoder (30_encoding.md R117). -/
def opcodeRowsRS : List OpcodeRow := [
  ⟨"BLKCLR", 0x00000040#32, 0xFFFFFFFF#32⟩,
  ⟨"BLKADD", 0x00000041#32, 0xFFFFFFFF#32⟩,
  ⟨"BLKSEL", 0x00000042#32, 0xFFFFFFFF#32⟩,
  ⟨"CAPBITS", 0x00000043#32, 0xFFFFFFFF#32⟩,
  ⟨"RSBLK", 0x00000044#32, 0xFFFFFCFF#32⟩,
  ⟨"RSRUN", 0x00000045#32, 0xFFFFFFFF#32⟩,
  ⟨"RSSYN", 0x00000046#32, 0xFFFFF0FF#32⟩]

/-- Rows of the format encoder (30_encoding.md R117). -/
def opcodeRowsFmt : List OpcodeRow := [
  ⟨"FMTENC", 0x00000050#32, 0xFFFFFFFF#32⟩,
  ⟨"FMTCHK", 0x00000051#32, 0xFFFFFFFF#32⟩]

/-- The opcode map, 30 rows (30_encoding.md R117). -/
def opcodeRows : List OpcodeRow :=
  opcodeRowsField ++ opcodeRowsPoly ++ opcodeRowsPack ++ opcodeRowsRS ++ opcodeRowsFmt

/-- The word matches the row (30_encoding.md R112). -/
def OpcodeRow.accepts (r : OpcodeRow) (w : Word) : Bool := w &&& r.mask == r.pattern

namespace CommandWord

/-- OPC, bits 7:0, is a listed opcode (30_encoding.md R112, R118). -/
def opcodeListed (w : Word) : Bool := opcodeRows.any fun r => w &&& 0xFF#32 == r.pattern &&& 0xFF#32

/-- RSV, bits 31:14, is 0 (30_encoding.md R110, R112). -/
def reservedZero (w : Word) : Bool := w &&& 0xFFFFC000#32 == 0#32

/-- Every register field (bits 13:8) that the row of this opcode does not use is 0 (30_encoding.md R112). -/
def unusedZero (w : Word) : Bool :=
  opcodeRows.all fun r => w &&& 0xFF#32 != r.pattern &&& 0xFF#32 || w &&& r.mask &&& 0x3F00#32 == 0#32

/-- A legal command word (30_encoding.md R112). -/
def wellFormed (w : Word) : Bool := opcodeListed w && reservedZero w && unusedZero w

end CommandWord

end Sys2Proof
end

