-- ==== Sys2Proof/Decode.lean ====
section
/-! DEFINITION. The decoder of command words, total and rejecting by name, and the encoder (30_encoding.md R110 to R120). -/

namespace Sys2Proof

/-- Why a word is no command (30_encoding.md R112, R118). Every reason ends in the same failure, ILLEGAL
(60_exceptions.md R300); the names keep the reasons apart for a reader. -/
inductive Reject where
  /-- OPC is not in the opcode map. -/
  | reservedOpcode
  /-- RSV, bits 31:14, is not 0. -/
  | reservedBits
  /-- A register field the command does not use is not 0. -/
  | unusedField
  deriving DecidableEq, Repr

/-- OPC, bits 7:0 (30_encoding.md R110). -/
def fieldOPC (w : Word) : BitVec 8 := w.extractLsb' 0 8
/-- PD, bits 9:8 (30_encoding.md R110, R111). -/
def fieldPD (w : Word) : BitVec 2 := w.extractLsb' 8 2
/-- PA, bits 11:10 (30_encoding.md R110, R111). -/
def fieldPA (w : Word) : BitVec 2 := w.extractLsb' 10 2
/-- PB, bits 13:12 (30_encoding.md R110, R111). -/
def fieldPB (w : Word) : BitVec 2 := w.extractLsb' 12 2
/-- RSV, bits 31:14 (30_encoding.md R110). -/
def fieldRSV (w : Word) : BitVec 18 := w.extractLsb' 14 18

/-- The polynomial register a 2-bit field names (30_encoding.md R111). -/
def PReg.ofBits (b : BitVec 2) : PReg :=
  if b = 0#2 then .p0 else if b = 1#2 then .p1 else if b = 2#2 then .p2 else .p3

/-- The 2-bit field that names a polynomial register (30_encoding.md R111). -/
def PReg.bits : PReg → BitVec 2
  | .p0 => 0#2
  | .p1 => 1#2
  | .p2 => 2#2
  | .p3 => 3#2

/-- The command `i`, if the word's reserved bits are 0 and so is every register field that its row does not use
(30_encoding.md R112). The three flags say which of PD, PA and PB the row uses. -/
def onlyFields (w : Word) (pd pa pb : Bool) (i : Instr) : Except Reject Instr :=
  if fieldRSV w ≠ 0#18 then .error .reservedBits
  else if (!pd && fieldPD w != 0#2) || (!pa && fieldPA w != 0#2) || (!pb && fieldPB w != 0#2) then
    .error .unusedField
  else .ok i

/-- The command a word stands for under the opcode map of 30_encoding.md R117, or the reason it is illegal. Legality
depends only on the word (R119). -/
def decode (w : Word) : Except Reject Instr :=
  let pd := PReg.ofBits (fieldPD w)
  let pa := PReg.ofBits (fieldPA w)
  let pb := PReg.ofBits (fieldPB w)
  match (fieldOPC w).toNat with
  | 0x00 => onlyFields w false false false .nop
  | 0x10 => onlyFields w false false false .gexp
  | 0x11 => onlyFields w false false false .glog
  | 0x12 => onlyFields w false false false .gmul
  | 0x20 => onlyFields w true false false (.pclr pd)
  | 0x21 => onlyFields w true false false (.ppush pd)
  | 0x22 => onlyFields w true false false (.pnorm pd)
  | 0x23 => onlyFields w false true false (.pget pa)
  | 0x24 => onlyFields w false true false (.plen pa)
  | 0x25 => onlyFields w true true false (.pmov pd pa)
  | 0x26 => onlyFields w true true true (.pmul pd pa pb)
  | 0x27 => onlyFields w true true true (.pmod pd pa pb)
  | 0x28 => onlyFields w true false false (.pgen pd)
  | 0x29 => onlyFields w false true false (.peval pa)
  | 0x30 => onlyFields w false false false .bbclr
  | 0x31 => onlyFields w false false false .bbput
  | 0x32 => onlyFields w false false false .bbbit
  | 0x33 => onlyFields w false false false .bblen
  | 0x34 => onlyFields w false false false .bbget
  | 0x35 => onlyFields w false false false .seg
  | 0x36 => onlyFields w false false false .final
  | 0x40 => onlyFields w false false false .blkclr
  | 0x41 => onlyFields w false false false .blkadd
  | 0x42 => onlyFields w false false false .blksel
  | 0x43 => onlyFields w false false false .capbits
  | 0x44 => onlyFields w true false false (.rsblk pd)
  | 0x45 => onlyFields w false false false .rsrun
  | 0x46 => onlyFields w true true false (.rssyn pd pa)
  | 0x50 => onlyFields w false false false .fmtenc
  | 0x51 => onlyFields w false false false .fmtchk
  | _ => .error .reservedOpcode

/-- `OPC | PD<<8 | PA<<10 | PB<<12` (30_encoding.md R120). -/
def assemble (opc : BitVec 8) (pd pa pb : BitVec 2) : Word :=
  opc.setWidth 32 ||| pd.setWidth 32 <<< 8 ||| pa.setWidth 32 <<< 10 ||| pb.setWidth 32 <<< 12

/-- The command word of a command (30_encoding.md R117, R120). -/
def encode : Instr → Word
  | .nop => assemble 0x00#8 0#2 0#2 0#2
  | .gexp => assemble 0x10#8 0#2 0#2 0#2
  | .glog => assemble 0x11#8 0#2 0#2 0#2
  | .gmul => assemble 0x12#8 0#2 0#2 0#2
  | .pclr pd => assemble 0x20#8 pd.bits 0#2 0#2
  | .ppush pd => assemble 0x21#8 pd.bits 0#2 0#2
  | .pnorm pd => assemble 0x22#8 pd.bits 0#2 0#2
  | .pget pa => assemble 0x23#8 0#2 pa.bits 0#2
  | .plen pa => assemble 0x24#8 0#2 pa.bits 0#2
  | .pmov pd pa => assemble 0x25#8 pd.bits pa.bits 0#2
  | .pmul pd pa pb => assemble 0x26#8 pd.bits pa.bits pb.bits
  | .pmod pd pa pb => assemble 0x27#8 pd.bits pa.bits pb.bits
  | .pgen pd => assemble 0x28#8 pd.bits 0#2 0#2
  | .peval pa => assemble 0x29#8 0#2 pa.bits 0#2
  | .bbclr => assemble 0x30#8 0#2 0#2 0#2
  | .bbput => assemble 0x31#8 0#2 0#2 0#2
  | .bbbit => assemble 0x32#8 0#2 0#2 0#2
  | .bblen => assemble 0x33#8 0#2 0#2 0#2
  | .bbget => assemble 0x34#8 0#2 0#2 0#2
  | .seg => assemble 0x35#8 0#2 0#2 0#2
  | .final => assemble 0x36#8 0#2 0#2 0#2
  | .blkclr => assemble 0x40#8 0#2 0#2 0#2
  | .blkadd => assemble 0x41#8 0#2 0#2 0#2
  | .blksel => assemble 0x42#8 0#2 0#2 0#2
  | .capbits => assemble 0x43#8 0#2 0#2 0#2
  | .rsblk pd => assemble 0x44#8 pd.bits 0#2 0#2
  | .rsrun => assemble 0x45#8 0#2 0#2 0#2
  | .rssyn pd pa => assemble 0x46#8 pd.bits pa.bits 0#2
  | .fmtenc => assemble 0x50#8 0#2 0#2 0#2
  | .fmtchk => assemble 0x51#8 0#2 0#2 0#2

/-- The instruction the decoder reads from a word given as a number: the low `nbits` bits of `w`, every bit above them
0. A command is exactly one 32-bit word (30_encoding.md R119), so a longer number is no command. -/
def decodeTableWord (nbits w : Nat) : Option Instr :=
  if w % 2 ^ nbits < 2 ^ 32 then
    match decode (BitVec.ofNat 32 (w % 2 ^ nbits)) with
    | .ok i => some i
    | .error _ => none
  else none

end Sys2Proof
end

