-- ==== Sys2Proof/Config.lean ====
section
/-! DEFINITION. What an implementation of QRE fixes (the sizes of 00_scope.md R5) and the free values the spec leaves
open. Each free value is an opaque constant without a body: no proof can learn anything about what it is. -/

namespace Sys2Proof.Config

/-- `QRE_ID`, the value of the ID register (00_scope.md R5, 10_state.md R31). -/
abbrev qreId : Word := 0x51524531#32

/-- `POLY_CAP`: coefficients one polynomial register holds (00_scope.md R5). DESIGN CHOICE, unsafe for another size: log 10. -/
abbrev polyCap : Nat := 512

/-- `INBUF_BYTES` (00_scope.md R5). DESIGN CHOICE, unsafe for another size: log 10. -/
abbrev inbufBytes : Nat := 4096

/-- `BITBUF_BITS` (00_scope.md R5). DESIGN CHOICE, unsafe for another size: log 10. -/
abbrev bitbufBits : Nat := 32768

/-- `CWBUF_BYTES` (00_scope.md R5). DESIGN CHOICE, unsafe for another size: log 10. -/
abbrev cwbufBytes : Nat := 4096

/-- `BLK_MAX`: RS blocks the block list holds (00_scope.md R5). DESIGN CHOICE, unsafe for another size: log 10. -/
abbrev blkMax : Nat := 128

/-- The byte INBUF shows at an address nothing has written since the reset numbered `epoch`: "unspecified: any byte
values" (70_reset_and_hazards.md R330, 93 U1). `Config.inbufFill epoch address`. DESIGN CHOICE, safe: log 4. -/
opaque inbufFill : Nat → Nat → Byte

/-- The byte CWBUF shows at an address nothing has written since the reset numbered `epoch`
(70_reset_and_hazards.md R330, R331, 93 U1). DESIGN CHOICE, safe: log 4. -/
opaque cwbufFill : Nat → Nat → Byte

/-- The word a host read of RESULT or of a window returns while BUSY = 1: "any value, 32 bits, independently on each
read" (70_reset_and_hazards.md R341, 93 U2), so it is applied to the counter of free values. DESIGN CHOICE, safe: log 5. -/
opaque unspecRead : Nat → Word

/-- `T_STEP`: how many further host accesses may come before the step of an accepted word, `Config.tStep word n` for
the `n`-th free value (70_reset_and_hazards.md R346, 92 D40). DESIGN CHOICE, safe: log 2. -/
opaque tStep : Word → Nat → Nat

/-- LOG[0], which "has no value" (10_state.md R51, 93 U7) and which no rule reads. DESIGN CHOICE, safe: log 8. -/
opaque logZero : Nat

end Sys2Proof.Config
end

