-- ==== Sys2Proof/Machine/State.lean ====
section
/-! DEFINITION. The state of QRE as plain data (10_state.md R55), the state after hardware reset
(70_reset_and_hazards.md R330), and the reasons a step could stop. -/

namespace Sys2Proof.Machine

/-- A fault that stops the machine. The spec has none: every host access completes without an error response
(20_memory.md R80), there is no trap (60_exceptions.md R308), and a failing command goes on with an error code in STATUS
(60_exceptions.md R304). So the type has no constructor and nobody raises one. DEDUCED, safe: log 16. -/
inductive Fault
  deriving DecidableEq, Repr

/-- A refusal: the model gives an instruction no meaning. -/
inductive Refusal where
  /-- Raised only by an arm of `exec` for an instruction that has no meaning yet, under its mnemonic. Safe: the model
  stops where the hardware goes on. No arm raises it: every command has its meaning. -/
  | notModelled (mnemonic : String)
  deriving DecidableEq, Repr

/-- The failures of a command (60_exceptions.md R300). -/
inductive ErrKind where
  /-- An operand outside its domain. -/
  | domain
  /-- The bit buffer is longer than the capacity at FINAL. -/
  | capacity
  /-- The command word is not a row of the opcode map. -/
  | illegal
  /-- A result would exceed a storage bound. -/
  | resource
  /-- A command whose required prior state is absent. -/
  | sequence
  deriving DecidableEq, Repr

/-- One RS block, the pair `(total, data)` of 10_state.md R47. -/
structure Block where
  total : Nat
  data : Nat
  deriving DecidableEq, Repr

/-- The polynomial registers P0 to P3, each a coefficient sequence with the highest degree first (10_state.md R43, R44). -/
structure PolyFile where
  p0 : List Byte
  p1 : List Byte
  p2 : List Byte
  p3 : List Byte
  deriving DecidableEq, Repr

/-- A byte buffer: the bytes written since its contents last became unspecified, at strictly rising addresses, and the
number of that occasion. A byte that is not listed shows a free value of that number (log 4). -/
structure Memory where
  cells : List Host.Cell
  epoch : Nat
  deriving DecidableEq, Repr

/-- One event from outside QRE: a host access of the bus (20_memory.md R80) or the assertion of the reset input
(70_reset_and_hazards.md R330). -/
inductive Input where
  /-- A host read of the 32-bit word at a byte offset. -/
  | read (addr : Addr)
  /-- A host write of a 32-bit word at a byte offset. -/
  | write (addr : Addr) (value : Word)
  /-- Assertion of the reset input. -/
  | hardReset
  deriving DecidableEq, Repr

/-- The state of QRE: the tuple of 10_state.md R55, then the model's own fields. -/
structure State where
  /-- CTRL.IE (10_state.md R34). -/
  ie : Bool
  /-- STATUS.BUSY (10_state.md R36). -/
  busy : Bool
  /-- STATUS.DONE (10_state.md R36). -/
  done : Bool
  /-- STATUS.ERR (10_state.md R36). -/
  err : Bool
  /-- STATUS.OVR (10_state.md R36). -/
  ovr : Bool
  /-- STATUS.ERRCODE (10_state.md R36, 60_exceptions.md R300). -/
  errcode : BitVec 4
  /-- ARG0 (10_state.md R38). -/
  arg0 : Word
  /-- ARG1 (10_state.md R38). -/
  arg1 : Word
  /-- ARG2 (10_state.md R38). -/
  arg2 : Word
  /-- ARG3 (10_state.md R38). -/
  arg3 : Word
  /-- RESULT (10_state.md R39). -/
  result : Word
  /-- PENDING, meaningful only while BUSY = 1 (10_state.md R42). Log 6. -/
  pending : Word
  /-- P0 to P3 (10_state.md R43). -/
  poly : PolyFile
  /-- BB, the bit buffer in append order (10_state.md R45). -/
  bb : List Bool
  /-- BLK, the block list (10_state.md R47). -/
  blk : List Block
  /-- INBUF (10_state.md R48). -/
  inbuf : Memory
  /-- CWBUF (10_state.md R49). -/
  cwbuf : Memory
  /-- The model's own: how many inputs may still come before the engine's step (70_reset_and_hazards.md R346). Log 2. -/
  lag : Nat
  /-- The model's own: the counter of free values. Log 3. -/
  free : Nat
  /-- The model's own: the inputs still to come, the next one first (00_scope.md R13, 20_memory.md R92). Log 1. -/
  inputs : List Input
  /-- The model's own: the data of the last host read (20_memory.md R80). Log 7. -/
  rdata : Word
  deriving DecidableEq, Repr

/-- A buffer whose contents became unspecified on occasion `epoch`: nothing is written yet. -/
def Memory.unwritten (epoch : Nat) : Memory := { cells := [], epoch := epoch }

/-- Four empty polynomial registers (10_state.md R43). -/
def PolyFile.empty : PolyFile := { p0 := [], p1 := [], p2 := [], p3 := [] }

/-- The state right after hardware reset (70_reset_and_hazards.md R330). INBUF and CWBUF are unspecified: log 4.
PENDING's word is DESIGN CHOICE 0 (log 6), and so are the model's own fields (log 1, 2, 3, 7). -/
def State.reset : State where
  ie := false
  busy := false
  done := false
  err := false
  ovr := false
  errcode := 0#4
  arg0 := 0#32
  arg1 := 0#32
  arg2 := 0#32
  arg3 := 0#32
  result := 0#32
  pending := 0#32
  poly := PolyFile.empty
  bb := []
  blk := []
  inbuf := Memory.unwritten 0
  cwbuf := Memory.unwritten 0
  lag := 0
  free := 1
  inputs := []
  rdata := 0#32

end Sys2Proof.Machine
end

