-- ==== Sys2Proof/Machine/Bits.lean ====
section
/-! DEFINITION. Bit sequences: `bitsOf`, the byte view of the bit buffer, the payload packing of each mode, and the
padding (10_state.md R46, 42_bit_buffer.md). -/

namespace Sys2Proof.Machine

/-- `bitsOf(v, w)`: the low `w` bits of `v`, bit `w-1` first (42_bit_buffer.md preamble, 00_scope.md R10). -/
def bitsOf (v w : Nat) : List Bool := (List.range w).map fun k => v.testBit (w - 1 - k)

/-- `bitAt(i)`: bit `i` of the buffer, 0 at or beyond its length (10_state.md R46). -/
def bitAt (bb : List Bool) (i : Nat) : Bool := bb.getD i false

/-- `BBBYTE(j)`: bits `8j .. 8j+7`, bit `8j` the most significant (10_state.md R46). -/
def bbByte (bb : List Bool) (j : Nat) : Byte :=
  BitVec.ofNat 8 ((List.range 8).map fun k => (bitAt bb (8 * j + k)).toNat * 2 ^ (7 - k)).sum

/-- `[BBBYTE(off + k) for k in 0..n-1]` (43_reed_solomon.md R235, R236). -/
def bbBytes (bb : List Bool) (off n : Nat) : List Byte := (List.range n).map fun k => bbByte bb (off + k)

/-- Numeric packing of digit values: runs of 3, 2 or 1 digits in 10, 7 or 4 bits (42_bit_buffer.md R200). -/
def packDigits : List Nat → List Bool
  | [] => []
  | [a] => bitsOf a 4
  | [a, b] => bitsOf (10 * a + b) 7
  | a :: b :: c :: rest => bitsOf (100 * a + 10 * b + c) 10 ++ packDigits rest

/-- Alphanumeric packing of indexes: pairs in 11 bits, a last single index in 6 (42_bit_buffer.md R201). -/
def packPairs : List Nat → List Bool
  | [] => []
  | [a] => bitsOf a 6
  | a :: b :: rest => bitsOf (a * 45 + b) 11 ++ packPairs rest

/-- Byte packing (42_bit_buffer.md R202). -/
def packBytes (data : List Byte) : List Bool := data.flatMap fun b => bitsOf b.toNat 8

/-- The bits of one Shift-JIS code: 13 bits if it lies in one of the two ranges, else none (42_bit_buffer.md R203). -/
def kanjiBits (c : Nat) : List Bool :=
  if 0x8140 ≤ c ∧ c ≤ 0x9FFC then
    bitsOf ((c - 0x8140) / 256 * 0xC0 + (c - 0x8140) % 256) 13
  else if 0xE040 ≤ c ∧ c ≤ 0xEBBF then
    bitsOf ((c - 0xC140) / 256 * 0xC0 + (c - 0xC140) % 256) 13
  else []

/-- Kanji packing: byte pairs, the high byte first (42_bit_buffer.md R203). -/
def packKanji : List Byte → List Bool
  | [] => []
  | [_] => []
  | hi :: lo :: rest => kanjiBits (hi.toNat * 256 + lo.toNat) ++ packKanji rest

/-- `pack(mode, data)`; a byte invalid for Numeric or Alphanumeric is a DomainError (42_bit_buffer.md R199 to R203). -/
def pack (mode : Nat) (data : List Byte) : Except ErrKind (List Bool) :=
  if mode = 0 then
    match data.mapM digitValue with
    | some ds => .ok (packDigits ds)
    | none => .error .domain
  else if mode = 1 then
    match data.mapM alnumIndex with
    | some is => .ok (packPairs is)
    | none => .error .domain
  else if mode = 2 then .ok (packBytes data)
  else .ok (packKanji data)

/-- The logical length of a segment of `n` bytes: byte pairs for Kanji, bytes otherwise (42_bit_buffer.md R198). -/
def segCount (mode n : Nat) : Nat := if mode = 3 then n / 2 else n

/-- `n` pad bytes, 0xEC and 0x11 in turn, 0xEC first (42_bit_buffer.md R205). -/
def padBytes (n : Nat) : List Bool := (List.range n).flatMap fun k => bitsOf (if k % 2 = 0 then 0xEC else 0x11) 8

/-- The bits FINAL appends to a buffer of `len` bits for the capacity `cap`: the terminator, the zeros up to the byte
boundary, the pad bytes (42_bit_buffer.md R205, R206 item 2). -/
def finalBits (len cap : Nat) : List Bool :=
  let t := min 4 (cap - len)
  let p := (8 - (len + t) % 8) % 8
  List.replicate t false ++ List.replicate p false ++ padBytes ((cap - len - t - p) / 8)

end Sys2Proof.Machine
end

