-- ==== Sys2Proof/Machine/Ops.lean ====
section
/-! DEFINITION. The named operations on the buffers, the registers and STATUS that every command and every host access
is made of: the canonical byte buffers, the polynomial registers, completion, failure and the return from it,
acceptance, and the resets. -/

namespace Sys2Proof.Machine

/-! ## Byte buffers (10_state.md R48, R49) -/

/-- The canonical form of a buffer of `size` bytes: strictly rising addresses, all below `size` (log 4). -/
abbrev Memory.wf (size : Nat) (m : Memory) : Prop :=
  m.cells.Pairwise (fun x y => x.1 < y.1) ∧ ∀ c ∈ m.cells, c.1 < size

/-- The byte written at `a`, none if nothing has been written there since the contents became unspecified. -/
def Memory.read? (m : Memory) (a : Nat) : Option Byte := m.cells.lookup a

/-- `cells` with the byte `v` at address `a`, the addresses still strictly rising. -/
def insertCell (a : Nat) (v : Byte) : List Host.Cell → List Host.Cell
  | [] => [(a, v)]
  | (b, w) :: rest =>
    if a < b then (a, v) :: (b, w) :: rest
    else if a = b then (a, v) :: rest
    else (b, w) :: insertCell a v rest

/-- The buffer with the byte `v` written at `a`. -/
def Memory.write (m : Memory) (a : Nat) (v : Byte) : Memory := { m with cells := insertCell a v m.cells }

/-- The buffer with the bytes written from address `a` on, in order. -/
def Memory.writeBytes (m : Memory) (a : Nat) : List Byte → Memory
  | [] => m
  | v :: vs => (m.write a v).writeBytes (a + 1) vs

/-- `INBUF[i]`: the byte written there, else the unspecified byte of its last reset (10_state.md R48, log 4). -/
def State.inbufByte (s : State) (i : Nat) : Byte := (s.inbuf.read? i).getD (Config.inbufFill s.inbuf.epoch i)

/-- `CWBUF[i]`: the byte written there, else the unspecified byte of its last reset (10_state.md R49, log 4). -/
def State.cwbufByte (s : State) (i : Nat) : Byte := (s.cwbuf.read? i).getD (Config.cwbufFill s.cwbuf.epoch i)

/-- `CWBUF[i] <- S[i]` for every index of the stream `bytes` (43_reed_solomon.md R236). A stream longer than the
buffer is impossible by 10_state.md R47; bytes past its end have no place (log 12). -/
def State.withCodewords (s : State) (bytes : List Byte) : State :=
  { s with cwbuf := s.cwbuf.writeBytes 0 (bytes.take Config.cwbufBytes) }

/-- The four bytes of a word, bits 7:0 first (20_memory.md R83, R87). -/
def bytesOfWord (v : Word) : List Byte :=
  [v.extractLsb' 0 8, v.extractLsb' 8 8, v.extractLsb' 16 8, v.extractLsb' 24 8]

/-- `INBUF[b] <- v[7:0]` up to `INBUF[b+3] <- v[31:24]` (20_memory.md R83, R87). -/
def State.withInbufWord (s : State) (b : Nat) (v : Word) : State :=
  { s with inbuf := s.inbuf.writeBytes b (bytesOfWord v) }

/-- `{b3, b2, b1, b0}`, the little-endian word of four bytes (20_memory.md R87). -/
def wordOfBytes (b0 b1 b2 b3 : Byte) : Word := b3 ++ b2 ++ b1 ++ b0

/-! ## Registers -/

/-- `P[k]` (10_state.md R43). -/
def PolyFile.get (f : PolyFile) : PReg → List Byte
  | .p0 => f.p0
  | .p1 => f.p1
  | .p2 => f.p2
  | .p3 => f.p3

/-- `P[k] <- c` (10_state.md R43). -/
def PolyFile.set (f : PolyFile) (k : PReg) (c : List Byte) : PolyFile :=
  match k with
  | .p0 => { f with p0 := c }
  | .p1 => { f with p1 := c }
  | .p2 => { f with p2 := c }
  | .p3 => { f with p3 := c }

/-- `P[k] <- c` on the state (00_scope.md R10). -/
def State.withPoly (s : State) (k : PReg) (c : List Byte) : State := { s with poly := s.poly.set k c }

/-- `RESULT <- w` (10_state.md R39). -/
def State.withResult (s : State) (w : Word) : State := { s with result := w }

/-- `RESULT <- n` for a count, zero-extended to 32 bits (30_encoding.md R116). -/
def State.withCount (s : State) (n : Nat) : State := s.withResult (BitVec.ofNat 32 n)

/-- `BB <- BB ++ bits` (10_state.md R45). -/
def State.appendBits (s : State) (bits : List Bool) : State := { s with bb := s.bb ++ bits }

/-- `BB <- bits`. -/
def State.withBits (s : State) (bits : List Bool) : State := { s with bb := bits }

/-- `BLK <- bs` (10_state.md R47). -/
def State.withBlocks (s : State) (bs : List Block) : State := { s with blk := bs }

/-- `sum(data)` over a block list (10_state.md R47). -/
abbrev sumData (bs : List Block) : Nat := (bs.map Block.data).sum

/-- `sum(total)` over a block list (10_state.md R47). -/
abbrev sumTotal (bs : List Block) : Nat := (bs.map Block.total).sum

/-- `cap = 8 * sum(data)`, the capacity in bits (42_bit_buffer.md R204). -/
abbrev State.capacity (s : State) : Nat := 8 * sumData s.blk

/-! ## Completion, failure and the return from it -/

/-- The code of a failure in STATUS.ERRCODE (60_exceptions.md R300). -/
def ErrKind.code : ErrKind → BitVec 4
  | .domain => 1#4
  | .capacity => 2#4
  | .illegal => 3#4
  | .resource => 4#4
  | .sequence => 5#4

/-- Successful completion: BUSY <- 0, DONE <- 1 (60_exceptions.md R303). -/
def State.complete (s : State) : State := { s with busy := false, done := true }

/-- Failed completion with a code: nothing but STATUS changes. This is the whole of QRE's exception entry
(60_exceptions.md R304, R308). -/
def State.fail (s : State) (k : ErrKind) : State :=
  { s with err := true, errcode := k.code, busy := false, done := true }

/-- CLRERR, the return from a failure: ERR, ERRCODE and OVR <- 0 (10_state.md R33, 60_exceptions.md R309). -/
def State.clearErr (s : State) : State := { s with err := false, errcode := 0#4, ovr := false }

/-- The end of a command's step at `s`: its effects are committed and it completes, or its first failed check ends it
(60_exceptions.md R301, R303 to R305). -/
def finish (s : State) (r : Except ErrKind State) : Host.Outcome State Fault Refusal :=
  match r with
  | .ok t => .next t.complete
  | .error k => .next (s.fail k)

/-! ## Acceptance and the resets -/

/-- Acceptance of the word `w`: PENDING <- w, DONE <- 0, BUSY <- 1 (60_exceptions.md R301 item 3). How many further
inputs come before its step is a free value (70_reset_and_hazards.md R346, log 2). -/
def State.accept (s : State) (w : Word) : State :=
  { s with pending := w, done := false, busy := true, lag := Config.tStep w s.free, free := s.free + 1 }

/-- Every element of 70_reset_and_hazards.md R330 at its reset value, but for the two buffers; the outside world and the
counter of free values go on. -/
def State.cleared (s : State) : State :=
  { State.reset with inbuf := s.inbuf, cwbuf := s.cwbuf, free := s.free, inputs := s.inputs, rdata := s.rdata }

/-- Soft reset: INBUF is kept; CWBUF is kept if BUSY was 0 and becomes unspecified if BUSY was 1
(70_reset_and_hazards.md R331). -/
def State.softReset (s : State) : State :=
  if s.busy then { s.cleared with cwbuf := Memory.unwritten s.free, free := s.free + 1 } else s.cleared

/-- Hardware reset: INBUF and CWBUF become unspecified too (70_reset_and_hazards.md R330). -/
def State.hardReset (s : State) : State :=
  { s.cleared with inbuf := Memory.unwritten s.free, cwbuf := Memory.unwritten s.free, free := s.free + 1 }

end Sys2Proof.Machine
end

