-- ==== Sys2Proof/Machine/Flags.lean ====
section
/-! DEFINITION. The flags of QRE: the STATUS and CTRL words as the host reads them, the actions of a CTRL write, and the
IRQ output (10_state.md R32 to R36, R41). QRE has no condition codes (10_state.md R54). -/

namespace Sys2Proof.Machine

/-- The STATUS word: ERRCODE 7:4, OVR 3, ERR 2, DONE 1, BUSY 0; bits 31:8 read 0 (10_state.md R36). -/
def State.statusWord (s : State) : Word :=
  (0#24 ++ s.errcode ++ BitVec.ofBool s.ovr ++ BitVec.ofBool s.err ++ BitVec.ofBool s.done ++ BitVec.ofBool s.busy : BitVec 32)

/-- The CTRL word a read returns: `{28'b0, 0, IE, 0, 0}` (10_state.md R35). -/
def State.ctrlWord (s : State) : Word := (0#29 ++ BitVec.ofBool s.ie ++ 0#2 : BitVec 32)

/-- The IRQ output: `CTRL.IE and STATUS.DONE` (10_state.md R41). -/
def State.irq (s : State) : Bool := s.ie && s.done

/-- A CTRL write: SRST, then CLRERR, then IE <- bit 2, then DONEACK; bits 31:4 are ignored (10_state.md R32 to R35). -/
def State.writeCtrl (s : State) (v : Word) : State :=
  let s1 := if v.getLsbD 0 then s.softReset else s
  let s2 := if v.getLsbD 1 then s1.clearErr else s1
  let s3 := { s2 with ie := v.getLsbD 2 }
  if v.getLsbD 3 then { s3 with done := false } else s3

end Sys2Proof.Machine
end

