-- ==== Sys2Proof/Machine/Bus.lean ====
section
/-! DEFINITION. The bus slave port: what a host read returns and what a host write does at each offset
(10_state.md R30 to R40, 20_memory.md R80 to R90, 60_exceptions.md R301, R302, 70_reset_and_hazards.md R341), and an
input from outside. -/

namespace Sys2Proof.Machine

/-- What an offset reaches: a register, or a window word at a byte index (10_state.md R30, 20_memory.md R81). -/
inductive Target where
  | id | ctrl | status | cmd | arg0 | arg1 | arg2 | arg3 | result | reserved
  | inbuf (b : Nat)
  | bitbuf (j : Nat)
  | cwbuf (c : Nat)
  deriving DecidableEq, Repr

/-- The register at a word-aligned offset of the register region (10_state.md R30). -/
def registerAt (a : Nat) : Target :=
  match a with
  | 0x000 => .id
  | 0x004 => .ctrl
  | 0x008 => .status
  | 0x00C => .cmd
  | 0x010 => .arg0
  | 0x014 => .arg1
  | 0x018 => .arg2
  | 0x01C => .arg3
  | 0x020 => .result
  | _ => .reserved

/-- The target of an offset, its bits 1:0 ignored (20_memory.md R81 to R85, R88). -/
def target (addr : Addr) : Target :=
  let a := (addr &&& 0x3FFC#14).toNat
  if a < 0x1000 then registerAt a
  else if a < 0x2000 then .inbuf (a - 0x1000)
  else if a < 0x3000 then .bitbuf (a - 0x2000)
  else .cwbuf (a - 0x3000)

/-- The word a read of a target returns, none where the spec leaves it unspecified: RESULT and the windows while
BUSY = 1 (10_state.md R30 to R40, 20_memory.md R83 to R85, 70_reset_and_hazards.md R341). -/
def State.readTarget (s : State) : Target → Option Word
  | .id => some Config.qreId
  | .ctrl => some s.ctrlWord
  | .status => some s.statusWord
  | .cmd => some 0#32
  | .arg0 => some s.arg0
  | .arg1 => some s.arg1
  | .arg2 => some s.arg2
  | .arg3 => some s.arg3
  | .reserved => some 0#32
  | .result => if s.busy then none else some s.result
  | .inbuf b =>
    if s.busy then none
    else some (wordOfBytes (s.inbufByte b) (s.inbufByte (b + 1)) (s.inbufByte (b + 2)) (s.inbufByte (b + 3)))
  | .bitbuf j =>
    if s.busy then none
    else some (wordOfBytes (bbByte s.bb j) (bbByte s.bb (j + 1)) (bbByte s.bb (j + 2)) (bbByte s.bb (j + 3)))
  | .cwbuf c =>
    if s.busy then none
    else some (wordOfBytes (s.cwbufByte c) (s.cwbufByte (c + 1)) (s.cwbufByte (c + 2)) (s.cwbufByte (c + 3)))

/-- A host read: its data goes to the host, and nothing in QRE changes (20_memory.md R90). An unspecified word is a
fresh free value (93 U2, log 5). -/
def State.hostRead (s : State) (addr : Addr) : State :=
  match s.readTarget (target addr) with
  | some v => { s with rdata := v }
  | none => { s with rdata := Config.unspecRead s.free, free := s.free + 1 }

/-- A write dropped because BUSY = 1: it changes nothing but OVR (60_exceptions.md R302). -/
def State.overrun (s : State) : State := { s with ovr := true }

/-- A host write of CMD: dropped with OVR while BUSY, dropped silently while ERR, else accepted (60_exceptions.md R301). -/
def State.writeCmd (s : State) (w : Word) : State :=
  if s.busy then s.overrun else if s.err then s else s.accept w

/-- What a host write of `v` does at a target (10_state.md R30 to R40, 20_memory.md R83 to R85, 60_exceptions.md R302). -/
def State.writeTarget (s : State) (t : Target) (v : Word) : State :=
  match t with
  | .ctrl => s.writeCtrl v
  | .cmd => s.writeCmd v
  | .arg0 => if s.busy then s.overrun else { s with arg0 := v }
  | .arg1 => if s.busy then s.overrun else { s with arg1 := v }
  | .arg2 => if s.busy then s.overrun else { s with arg2 := v }
  | .arg3 => if s.busy then s.overrun else { s with arg3 := v }
  | .inbuf b => if s.busy then s.overrun else s.withInbufWord b v
  | .id | .status | .result | .reserved | .bitbuf _ | .cwbuf _ => s

/-- A host write of the word `v` at a byte offset (20_memory.md R80, R88). -/
def State.hostWrite (s : State) (addr : Addr) (v : Word) : State := s.writeTarget (target addr) v

/-- The effect of one input (00_scope.md R13, 70_reset_and_hazards.md R330). -/
def State.receive (s : State) : Input → State
  | .read addr => s.hostRead addr
  | .write addr v => s.hostWrite addr v
  | .hardReset => s.hardReset

end Sys2Proof.Machine
end

