-- ==== Sys2Proof/Machine/Operands.lean ====
section
/-! DEFINITION. The operand forms of a command (30_encoding.md R113, R114, R124): `uint` and `sint` of the ARG registers,
polynomial registers, and ranges of INBUF and of the bit buffer. Each is read at the command's step. -/

namespace Sys2Proof.Machine

/-- `uint(ARG0)` (00_scope.md R8, 30_encoding.md R113). -/
abbrev State.u0 (s : State) : Nat := s.arg0.toNat

/-- `uint(ARG1)` (00_scope.md R8, 30_encoding.md R113). -/
abbrev State.u1 (s : State) : Nat := s.arg1.toNat

/-- `uint(ARG2)` (00_scope.md R8, 30_encoding.md R113). -/
abbrev State.u2 (s : State) : Nat := s.arg2.toNat

/-- `uint(ARG3)` (00_scope.md R8, 30_encoding.md R113). -/
abbrev State.u3 (s : State) : Nat := s.arg3.toNat

/-- `sint(ARG0)`, the only signed operand (00_scope.md R8, 30_encoding.md R114). -/
abbrev State.i0 (s : State) : Int := s.arg0.toInt

/-- `P[k]`, a polynomial register operand (30_encoding.md R111). -/
abbrev State.polyReg (s : State) (k : PReg) : List Byte := s.poly.get k

/-- `INBUF[off .. off+n)` (30_encoding.md R124). -/
def State.inbufRange (s : State) (off n : Nat) : List Byte := (List.range n).map fun k => s.inbufByte (off + k)

/-- The bytes `off .. off+n-1` of the byte view of BB (30_encoding.md R124, 10_state.md R46). -/
def State.bbRange (s : State) (off n : Nat) : List Byte := bbBytes s.bb off n

end Sys2Proof.Machine
end

