-- ==== Sys2Proof/Machine/BitBuffer.lean ====
section
/-! DEFINITION. The pack sequencer (42_bit_buffer.md). Every check is made before a single bit is appended. -/

namespace Sys2Proof.Machine

/-- BBCLR: `BB <- []` (42_bit_buffer.md R190). -/
def execBbclr (s : State) : Host.Outcome State Fault Refusal :=
  finish s (.ok (s.withBits []))

/-- BBPUT: the low ARG1 bits of ARG0, most significant first (42_bit_buffer.md R191). -/
def execBbput (s : State) : Host.Outcome State Fault Refusal :=
  finish s (if 32 < s.u1 then .error .domain
    else if Config.bitbufBits < s.bb.length + s.u1 then .error .resource
    else .ok (s.appendBits (bitsOf s.u0 s.u1)))

/-- BBBIT: one bit, the truth value of ARG0 (42_bit_buffer.md R192). -/
def execBbbit (s : State) : Host.Outcome State Fault Refusal :=
  finish s (if Config.bitbufBits < s.bb.length + 1 then .error .resource
    else .ok (s.appendBits [s.u0 != 0]))

/-- BBLEN: the bit length (42_bit_buffer.md R193). -/
def execBblen (s : State) : Host.Outcome State Fault Refusal :=
  finish s (.ok (s.withCount s.bb.length))

/-- BBGET: bit ARG0, DOMAIN at or beyond the length (42_bit_buffer.md R194). -/
def execBbget (s : State) : Host.Outcome State Fault Refusal :=
  finish s (if s.bb.length ≤ s.u0 then .error .domain
    else .ok (s.withCount (bitAt s.bb s.u0).toNat))

/-- The bits of one segment: the mode indicator, the length field, the payload (42_bit_buffer.md R199). -/
def segBits (mode n ver : Nat) (payload : List Bool) : List Bool :=
  bitsOf (modeInd mode) 4 ++ bitsOf (segCount mode n) (lenBits mode (band ver)) ++ payload

/-- SEG: one segment of ARG2 bytes at INBUF offset ARG1, in mode ARG0, for version ARG3 (42_bit_buffer.md R199). -/
def execSeg (s : State) : Host.Outcome State Fault Refusal :=
  finish s (if 3 < s.u0 then .error .domain
    else if s.u3 < 1 ∨ 40 < s.u3 then .error .domain
    else if Config.inbufBytes < s.u1 + s.u2 then .error .domain
    else if s.u0 = 3 ∧ s.u2 % 2 = 1 then .error .domain
    else match pack s.u0 (s.inbufRange s.u1 s.u2) with
      | .error k => .error k
      | .ok payload =>
        if Config.bitbufBits < s.bb.length + (segBits s.u0 s.u2 s.u3 payload).length then .error .resource
        else .ok ((s.appendBits (segBits s.u0 s.u2 s.u3 payload)).withCount
          (segBits s.u0 s.u2 s.u3 payload).length))

/-- FINAL: terminator and padding up to the capacity of the block list (42_bit_buffer.md R205). -/
def execFinal (s : State) : Host.Outcome State Fault Refusal :=
  finish s (if s.blk.length = 0 then .error .sequence
    else if s.capacity < s.bb.length then .error .capacity
    else .ok ((s.appendBits (finalBits s.bb.length s.capacity)).withCount (s.capacity - s.bb.length)))

end Sys2Proof.Machine
end

