-- ==== Sys2Proof/Machine/Control.lean ====
section
/-! DEFINITION. The control command (40_galois_field.md R140). -/

namespace Sys2Proof.Machine

/-- NOP completes and does nothing else (40_galois_field.md R140). -/
def execNop (s : State) : Host.Outcome State Fault Refusal := finish s (.ok s)

end Sys2Proof.Machine
end

