-- ==== Sys2Proof/Machine/Bch.lean ====
section
/-! DEFINITION. The BCH(15,5) remainder of the format unit (44_format_info.md R262). -/

namespace Sys2Proof.Machine

/-- `bitlen(w)`, with `bitlen(0) = 0` (44_format_info.md R262). -/
def bitLen (w : Nat) : Nat := if w = 0 then 0 else Nat.log2 w + 1

/-- The loop of `bchrem`, at most `fuel` passes. Each pass clears the top bit, so `bchrem`'s fuel suffices (log 12). -/
def bchLoop : Nat → Nat → Nat
  | 0, w => w
  | fuel + 1, w => if 11 ≤ bitLen w then bchLoop fuel (w ^^^ (g15 <<< (bitLen w - 11))) else w

/-- `bchrem(w)`: the remainder of `w(x)` by `G15(x)` over GF(2) (44_format_info.md R262). -/
def bchrem (w : Nat) : Nat := bchLoop (bitLen w) w

/-- The 15-bit format word of an ECL in 0..3 and a mask in 0..7 (44_format_info.md R262). -/
def formatWord (ecl m : Nat) : Nat :=
  let d5 := fmtLevelBits ecl <<< 3 ||| m
  (d5 <<< 10 ||| bchrem (d5 <<< 10)) ^^^ fmtMask

/-- The word FMTCHK returns for a 15-bit format word: syndrome 9:0, mask 12:10, level bits 14:13, ECL 17:16, VALID 31
(44_format_info.md R263). -/
def formatCheck (w : Nat) : Nat :=
  let u := w ^^^ fmtMask
  let s := bchrem u
  let lv := u / 2 ^ 13 % 4
  let m := u / 2 ^ 10 % 8
  s ||| m <<< 10 ||| lv <<< 13 ||| fmtEclOf lv <<< 16 ||| (if s = 0 then 1 else 0) <<< 31

end Sys2Proof.Machine
end

