-- ==== Sys2Proof/Machine/FormatInfo.lean ====
section
/-! DEFINITION. The format-information unit (44_format_info.md). -/

namespace Sys2Proof.Machine

/-- FMTENC: the 15-bit format word of ECL ARG0 and mask ARG1 (44_format_info.md R262). -/
def execFmtenc (s : State) : Host.Outcome State Fault Refusal :=
  finish s (if 3 < s.u0 then .error .domain
    else if 7 < s.u1 then .error .domain
    else .ok (s.withCount (formatWord s.u0 s.u1)))

/-- FMTCHK: syndrome, fields and VALID of the format word ARG0; a wrong word is no error (44_format_info.md R263). -/
def execFmtchk (s : State) : Host.Outcome State Fault Refusal :=
  finish s (if 0x7FFF < s.u0 then .error .domain
    else .ok (s.withCount (formatCheck s.u0)))

end Sys2Proof.Machine
end

