-- ==== Sys2Proof/Machine/Field.lean ====
section
/-! DEFINITION. The field functions of 00_scope.md R11, which GEXP, GLOG, GMUL and the polynomial and RS units share
(40_galois_field.md R145). Field addition is `^^^` (00_scope.md R7). -/

namespace Sys2Proof.Machine

/-- `gexp(n) = EXP[n mod 255]` for any integer `n` (00_scope.md R11). -/
def gexp (n : Int) : Byte := expRom (n % 255).toNat

/-- `glog(n) = LOG[n]`, a DomainError unless `1 <= n <= 255` (00_scope.md R11). -/
def glog (n : Nat) : Except ErrKind Nat :=
  if n < 1 ∨ 255 < n then .error .domain else .ok (logRom (BitVec.ofNat 8 n))

/-- `gmul(a, b)`: 0 if a factor is 0, else `gexp(glog(a) + glog(b))` (00_scope.md R11). -/
def gmul (a b : Byte) : Byte :=
  if a = 0#8 ∨ b = 0#8 then 0#8 else expRom ((logRom a + logRom b) % 255)

end Sys2Proof.Machine
end

