-- ==== Sys2Proof/Machine/Galois.lean ====
section
/-! DEFINITION. The GF unit (40_galois_field.md). -/

namespace Sys2Proof.Machine

/-- GEXP: `RESULT <- EXP[sint(ARG0) mod 255]` (40_galois_field.md R141). -/
def execGexp (s : State) : Host.Outcome State Fault Refusal :=
  finish s (.ok (s.withResult ((gexp s.i0).setWidth 32)))

/-- GLOG: `RESULT <- LOG[uint(ARG0)]`, DOMAIN unless it is in 1..255 (40_galois_field.md R142). -/
def execGlog (s : State) : Host.Outcome State Fault Refusal :=
  finish s (match glog s.u0 with
    | .ok n => .ok (s.withCount n)
    | .error k => .error k)

/-- GMUL: the field product of ARG0 and ARG1, DOMAIN if one is above 255 (40_galois_field.md R143). -/
def execGmul (s : State) : Host.Outcome State Fault Refusal :=
  finish s (if 255 < s.u0 then .error .domain
    else if 255 < s.u1 then .error .domain
    else .ok (s.withResult ((gmul (BitVec.ofNat 8 s.u0) (BitVec.ofNat 8 s.u1)).setWidth 32)))

end Sys2Proof.Machine
end

