-- ==== Sys2Proof/Machine/Poly.lean ====
section
/-! DEFINITION. Polynomials over GF(256) as coefficient sequences, highest degree first (00_scope.md R9): the
computations behind the polynomial unit (41_polynomial.md) and the EC codewords (43_reed_solomon.md). -/

namespace Sys2Proof.Machine

/-- `strip(s)`: without the leading zero coefficients (41_polynomial.md R160). -/
def strip : List Byte → List Byte
  | [] => []
  | c :: cs => if c = 0#8 then strip cs else c :: cs

/-- `zeros(n)` (00_scope.md R9). -/
def zeros (n : Nat) : List Byte := List.replicate n 0#8

/-- `construct(s, shift) = strip(s) ++ zeros(shift)` (41_polynomial.md R161). -/
def construct (s : List Byte) (shift : Nat) : List Byte := strip s ++ zeros shift

/-- `row` XORed into the front of `c`, which keeps its length. -/
def xorInto : List Byte → List Byte → List Byte
  | [], _ => []
  | c, [] => c
  | c :: cs, r :: rs => (c ^^^ r) :: xorInto cs rs

/-- The double loop of PMUL (41_polynomial.md R168): row `i` XORs `a[i]` times `b` into `c` from index `i` on. -/
def mulRows : List Byte → List Byte → List Byte → List Byte
  | [], _, c => c
  | x :: xs, b, c =>
    match xorInto c (b.map (gmul x)) with
    | [] => []
    | h :: t => h :: mulRows xs b t

/-- The PMUL computation: the product, stripped; empty if a factor is empty (41_polynomial.md R168). -/
def polyMul (a b : List Byte) : List Byte :=
  if a.length = 0 ∨ b.length = 0 then [] else strip (mulRows a b (zeros (a.length + b.length - 1)))

/-- One pass of PMOD's loop: the log-ratio of the leading coefficients, a scaled copy of the divisor XORed into the
front of the dividend, and the strip (41_polynomial.md R169). -/
def modPass (a b : List Byte) : List Byte :=
  let ratio : Int := (logRom (a.headD 0#8) : Int) - (logRom (b.headD 0#8) : Int)
  strip (xorInto a (b.map fun bi => if bi = 0#8 then 0#8 else gexp ((logRom bi : Int) + ratio)))

/-- PMOD's loop, at most `fuel` passes (41_polynomial.md R169). R170 item 1 bounds the passes, so `polyMod`'s fuel is
never used up (log 12). -/
def modLoop : Nat → List Byte → List Byte → Except ErrKind (List Byte)
  | 0, a, _ => .ok a
  | fuel + 1, a, b =>
    if a.length < b.length then .ok a
    else if a.headD 0#8 = 0#8 then .error .domain
    else modLoop fuel (modPass a b) b

/-- The PMOD computation: a DomainError for an empty divisor or one with a leading zero, else the loop
(41_polynomial.md R169). -/
def polyMod (a b : List Byte) : Except ErrKind (List Byte) :=
  if b.length = 0 then .error .domain
  else if b.headD 0#8 = 0#8 then .error .domain
  else modLoop (a.length + 1) a b

/-- The PGEN computation: the product of `(1, gexp(i))` for `i` in `0..n-1` (41_polynomial.md R171). -/
def genPoly (n : Nat) : List Byte :=
  (List.range n).foldl (fun g i => polyMul g [1#8, expRom (i % 255)]) [1#8]

/-- The PEVAL computation, Horner's rule (41_polynomial.md R172). -/
def polyEval (p : List Byte) (x : Byte) : Byte := p.foldl (fun acc c => gmul acc x ^^^ c) 0#8

/-- `ecOf(data, e)`: the low-order `e` coefficients of `construct(data, e)` modulo the generator of degree `e`, with
zeros in front if the remainder is shorter (43_reed_solomon.md R235). -/
def ecOf (data : List Byte) (e : Nat) : Except ErrKind (List Byte) :=
  match polyMod (construct data e) (genPoly e) with
  | .error k => .error k
  | .ok m => .ok ((List.range e).map fun i => if e ≤ i + m.length then m.getD (i + m.length - e) 0#8 else 0#8)

/-- The syndromes of a codeword: its values at `gexp(0) .. gexp(e-1)` (43_reed_solomon.md R238). -/
def syndromes (p : List Byte) (e : Nat) : List Byte :=
  (List.range e).map fun j => polyEval p (expRom (j % 255))

/-- `interleave(X)`: index by index, the shorter sequences skipped once exhausted (43_reed_solomon.md R237). -/
def interleave (xs : List (List Byte)) : List Byte :=
  (List.range (xs.foldl (fun m x => max m x.length) 0)).flatMap fun i => xs.filterMap fun x => x[i]?

end Sys2Proof.Machine
end

