-- ==== Sys2Proof/Machine/Polynomial.lean ====
section
/-! DEFINITION. The polynomial unit (41_polynomial.md). Every source register is read before the destination is
written, so a destination may be a source. -/

namespace Sys2Proof.Machine

/-- PCLR: `P[PD] <- []` (41_polynomial.md R162). -/
def execPclr (pd : PReg) (s : State) : Host.Outcome State Fault Refusal :=
  finish s (.ok (s.withPoly pd []))

/-- PPUSH: a coefficient appended at the low-degree end, not stripped (41_polynomial.md R163). -/
def execPpush (pd : PReg) (s : State) : Host.Outcome State Fault Refusal :=
  finish s (if 255 < s.u0 then .error .domain
    else if (s.polyReg pd).length = Config.polyCap then .error .resource
    else .ok (s.withPoly pd (s.polyReg pd ++ [BitVec.ofNat 8 s.u0])))

/-- PNORM: `construct(P[PD], ARG0)`; the bound is checked on the length, before the zeros are made
(41_polynomial.md R164). -/
def execPnorm (pd : PReg) (s : State) : Host.Outcome State Fault Refusal :=
  finish s (if Config.polyCap < (strip (s.polyReg pd)).length + s.u0 then .error .resource
    else .ok ((s.withPoly pd (construct (s.polyReg pd) s.u0)).withCount ((strip (s.polyReg pd)).length + s.u0)))

/-- PGET: coefficient ARG0, index 0 the highest degree (41_polynomial.md R165). -/
def execPget (pa : PReg) (s : State) : Host.Outcome State Fault Refusal :=
  finish s (if (s.polyReg pa).length ≤ s.u0 then .error .domain
    else .ok (s.withResult (((s.polyReg pa).getD s.u0 0#8).setWidth 32)))

/-- PLEN: the length (41_polynomial.md R166). -/
def execPlen (pa : PReg) (s : State) : Host.Outcome State Fault Refusal :=
  finish s (.ok (s.withCount (s.polyReg pa).length))

/-- PMOV: an exact copy (41_polynomial.md R167). -/
def execPmov (pd pa : PReg) (s : State) : Host.Outcome State Fault Refusal :=
  finish s (.ok (s.withPoly pd (s.polyReg pa)))

/-- PMUL: the product, RESOURCE if it would need more than POLY_CAP coefficients before stripping
(41_polynomial.md R168). -/
def execPmul (pd pa pb : PReg) (s : State) : Host.Outcome State Fault Refusal :=
  let a := s.polyReg pa
  let b := s.polyReg pb
  finish s (if a.length ≠ 0 ∧ b.length ≠ 0 ∧ Config.polyCap < a.length + b.length - 1 then .error .resource
    else .ok ((s.withPoly pd (polyMul a b)).withCount (polyMul a b).length))

/-- PMOD: the remainder of P[PA] by P[PB] (41_polynomial.md R169). -/
def execPmod (pd pa pb : PReg) (s : State) : Host.Outcome State Fault Refusal :=
  finish s (match polyMod (s.polyReg pa) (s.polyReg pb) with
    | .ok r => .ok ((s.withPoly pd r).withCount r.length)
    | .error k => .error k)

/-- PGEN: the generator polynomial of degree ARG0 (41_polynomial.md R171). -/
def execPgen (pd : PReg) (s : State) : Host.Outcome State Fault Refusal :=
  finish s (if Config.polyCap < s.u0 + 1 then .error .resource
    else .ok (s.withPoly pd (genPoly s.u0)))

/-- PEVAL: the value of P[PA] at ARG0 (41_polynomial.md R172). -/
def execPeval (pa : PReg) (s : State) : Host.Outcome State Fault Refusal :=
  finish s (if 255 < s.u0 then .error .domain
    else .ok (s.withResult ((polyEval (s.polyReg pa) (BitVec.ofNat 8 s.u0)).setWidth 32)))

end Sys2Proof.Machine
end

