-- ==== Sys2Proof/Machine/ReedSolomon.lean ====
section
/-! DEFINITION. The RS encoder (43_reed_solomon.md). -/

namespace Sys2Proof.Machine

/-- BLKCLR: `BLK <- []` (43_reed_solomon.md R231). -/
def execBlkclr (s : State) : Host.Outcome State Fault Refusal :=
  finish s (.ok (s.withBlocks []))

/-- BLKADD: ARG0 blocks of ARG1 total and ARG2 data codewords, appended (43_reed_solomon.md R232). -/
def execBlkadd (s : State) : Host.Outcome State Fault Refusal :=
  finish s (if s.u0 < 1 ∨ s.u2 < 1 ∨ s.u1 < s.u2 ∨ 255 < s.u1 then .error .domain
    else if Config.blkMax < s.blk.length + s.u0 then .error .resource
    else if Config.bitbufBits / 8 < sumData s.blk + s.u0 * s.u2 then .error .resource
    else if Config.cwbufBytes < sumTotal s.blk + s.u0 * s.u1 then .error .resource
    else .ok ((s.withBlocks (s.blk ++ List.replicate s.u0 { total := s.u1, data := s.u2 })).withCount
      (s.blk.length + s.u0)))

/-- BLKSEL: the table layout of version ARG0 and level ARG1 replaces the block list (43_reed_solomon.md R233). -/
def execBlksel (s : State) : Host.Outcome State Fault Refusal :=
  finish s (if s.u0 < 1 ∨ 40 < s.u0 then .error .domain
    else if 3 < s.u1 then .error .domain
    else
      let x := expand (rsBlockEntry s.u0 s.u1)
      if Config.blkMax < x.length ∨ Config.bitbufBits / 8 < sumData x ∨ Config.cwbufBytes < sumTotal x then
        .error .resource
      else .ok ((s.withBlocks x).withCount x.length))

/-- CAPBITS: the capacity in bits (43_reed_solomon.md R234). -/
def execCapbits (s : State) : Host.Outcome State Fault Refusal :=
  finish s (.ok (s.withCount s.capacity))

/-- RSBLK: the ARG2 EC codewords of ARG1 bit-buffer bytes from offset ARG0 (43_reed_solomon.md R235). -/
def execRsblk (pd : PReg) (s : State) : Host.Outcome State Fault Refusal :=
  finish s (if 255 < s.u1 + s.u2 then .error .domain
    else if s.bb.length < 8 * (s.u0 + s.u1) then .error .domain
    else match ecOf (s.bbRange s.u0 s.u1) s.u2 with
      | .error k => .error k
      | .ok ec => .ok (s.withPoly pd ec))

/-- The data codewords of each block, sliced from the bit buffer in order from byte `o` on (43_reed_solomon.md R230, R236). -/
def sliceBlocks (bb : List Bool) : Nat → List Block → List (List Byte)
  | _, [] => []
  | o, b :: bs => bbBytes bb o b.data :: sliceBlocks bb (o + b.data) bs

/-- The EC codewords of each block (43_reed_solomon.md R236). -/
def ecBlocks : List Block → List (List Byte) → Except ErrKind (List (List Byte))
  | b :: bs, d :: ds =>
    match ecOf d (b.total - b.data) with
    | .error k => .error k
    | .ok e =>
      match ecBlocks bs ds with
      | .error k => .error k
      | .ok es => .ok (e :: es)
  | _, _ => .ok []

/-- RSRUN: every block's EC codewords, and the interleaved stream into CWBUF (43_reed_solomon.md R236, R237). -/
def execRsrun (s : State) : Host.Outcome State Fault Refusal :=
  finish s (if s.blk.length = 0 then .error .sequence
    else if s.bb.length ≠ s.capacity then .error .sequence
    else match ecBlocks s.blk (sliceBlocks s.bb 0 s.blk) with
      | .error k => .error k
      | .ok es =>
        let stream := interleave (sliceBlocks s.bb 0 s.blk) ++ interleave es
        .ok ((s.withCodewords stream).withCount stream.length))

/-- RSSYN: ARG0 syndromes of P[PA] into P[PD], RESULT 1 if all are 0 (43_reed_solomon.md R238). -/
def execRssyn (pd pa : PReg) (s : State) : Host.Outcome State Fault Refusal :=
  finish s (if Config.polyCap < s.u0 then .error .resource
    else .ok ((s.withPoly pd (syndromes (s.polyReg pa) s.u0)).withCount
      (if (syndromes (s.polyReg pa) s.u0).all (· == 0#8) then 1 else 0)))

end Sys2Proof.Machine
end

