-- ==== Sys2Proof/Machine/Dispatch.lean ====
section
/-! DEFINITION. The engine's step of a legal command: one direct call of a meaning for each command. -/

namespace Sys2Proof.Machine

def exec (i : Instr) (s : State) : Host.Outcome State Fault Refusal :=
  match i with
  | .nop => Sys2Proof.Machine.execNop s
  | .gexp => Sys2Proof.Machine.execGexp s
  | .glog => Sys2Proof.Machine.execGlog s
  | .gmul => Sys2Proof.Machine.execGmul s
  | .pclr pd => Sys2Proof.Machine.execPclr pd s
  | .ppush pd => Sys2Proof.Machine.execPpush pd s
  | .pnorm pd => Sys2Proof.Machine.execPnorm pd s
  | .pget pa => Sys2Proof.Machine.execPget pa s
  | .plen pa => Sys2Proof.Machine.execPlen pa s
  | .pmov pd pa => Sys2Proof.Machine.execPmov pd pa s
  | .pmul pd pa pb => Sys2Proof.Machine.execPmul pd pa pb s
  | .pmod pd pa pb => Sys2Proof.Machine.execPmod pd pa pb s
  | .pgen pd => Sys2Proof.Machine.execPgen pd s
  | .peval pa => Sys2Proof.Machine.execPeval pa s
  | .bbclr => Sys2Proof.Machine.execBbclr s
  | .bbput => Sys2Proof.Machine.execBbput s
  | .bbbit => Sys2Proof.Machine.execBbbit s
  | .bblen => Sys2Proof.Machine.execBblen s
  | .bbget => Sys2Proof.Machine.execBbget s
  | .seg => Sys2Proof.Machine.execSeg s
  | .final => Sys2Proof.Machine.execFinal s
  | .blkclr => Sys2Proof.Machine.execBlkclr s
  | .blkadd => Sys2Proof.Machine.execBlkadd s
  | .blksel => Sys2Proof.Machine.execBlksel s
  | .capbits => Sys2Proof.Machine.execCapbits s
  | .rsblk pd => Sys2Proof.Machine.execRsblk pd s
  | .rsrun => Sys2Proof.Machine.execRsrun s
  | .rssyn pd pa => Sys2Proof.Machine.execRssyn pd pa s
  | .fmtenc => Sys2Proof.Machine.execFmtenc s
  | .fmtchk => Sys2Proof.Machine.execFmtchk s

end Sys2Proof.Machine
end

