-- ==== Sys2Proof/Machine/Engine.lean ====
section
/-! DEFINITION. What one step of the machine does: the engine's step of the accepted word, the next input from outside,
or nothing (00_scope.md R13, 20_memory.md R92). -/

namespace Sys2Proof.Machine

/-- The engine's step of the word in PENDING: legality first, then the command (60_exceptions.md R301, R306;
30_encoding.md R112). -/
def State.runPending (s : State) : Host.Outcome State Fault Refusal :=
  match decode s.pending with
  | .ok i => exec i s
  | .error _ => .next (s.fail .illegal)

/-- It is the engine's turn: a command is accepted, and no input comes before its step any more
(70_reset_and_hazards.md R346, log 2). -/
def State.engineTurn (s : State) : Bool := s.busy && (s.lag == 0 || s.inputs.isEmpty)

/-- One step: the engine's, else the next input's, else none at all: an idle QRE does nothing (60_exceptions.md R315). -/
def State.advance (s : State) : Host.Outcome State Fault Refusal :=
  if s.engineTurn then s.runPending
  else match s.inputs with
    | [] => .next s
    | e :: rest => .next (({ s with inputs := rest, lag := s.lag - 1 } : State).receive e)

/-- The state with the word `w` accepted and its step next: PENDING <- w, BUSY <- 1, DONE <- 0, as 60_exceptions.md
R301 item 3 leaves them, and no input before the step (log 11). -/
def State.withPending (s : State) (w : Word) : State :=
  { s with pending := w, busy := true, done := false, lag := 0 }

end Sys2Proof.Machine
end

