-- ==== Sys2Proof/Safety.lean ====
section
/-! DEFINITION. What a safe state and a safe run of QRE are: the bounds the spec gives every part of the state, and a run
that ends in no fault and no refusal. -/

namespace Sys2Proof.Machine

/-- The invariant of QRE: every part of the state within the bounds of 10_state.md R43, R45 and R47, the buffers in
canonical form, ERRCODE one of the codes of 60_exceptions.md R300 and 0 exactly while ERR = 0 (10_state.md R36), and
neither ERR nor DONE set while a command is in flight (60_exceptions.md R301, R303, R310). -/
structure State.Inv (s : State) : Prop where
  /-- A polynomial register holds at most POLY_CAP coefficients (10_state.md R43). -/
  polyBound : ∀ k, (s.poly.get k).length ≤ Config.polyCap
  /-- BB holds at most BITBUF_BITS bits (10_state.md R45). -/
  bitBound : s.bb.length ≤ Config.bitbufBits
  /-- `1 <= data <= total <= 255` for every block (10_state.md R47). -/
  blockShape : ∀ b ∈ s.blk, 1 ≤ b.data ∧ b.data ≤ b.total ∧ b.total ≤ 255
  /-- At most BLK_MAX blocks (10_state.md R47). -/
  blockCount : s.blk.length ≤ Config.blkMax
  /-- `sum(data) <= BITBUF_BITS/8` (10_state.md R47). -/
  dataBound : sumData s.blk ≤ Config.bitbufBits / 8
  /-- `sum(total) <= CWBUF_BYTES` (10_state.md R47). -/
  totalBound : sumTotal s.blk ≤ Config.cwbufBytes
  /-- INBUF is in canonical form (log 4). -/
  inbufForm : s.inbuf.wf Config.inbufBytes
  /-- CWBUF is in canonical form (log 4). -/
  cwbufForm : s.cwbuf.wf Config.cwbufBytes
  /-- ERRCODE is never one of the reserved codes 6 to 15 (60_exceptions.md R300, 93 U5). -/
  codeRange : s.errcode.toNat ≤ 5
  /-- ERRCODE is 0 while ERR = 0, and only then (10_state.md R36). -/
  codeZero : s.errcode = 0#4 ↔ s.err = false
  /-- No command is in flight while ERR = 1 (60_exceptions.md R301, R310). -/
  busyNoErr : s.busy = true → s.err = false
  /-- DONE is 0 while a command is in flight (60_exceptions.md R301, R303). -/
  busyNoDone : s.busy = true → s.done = false
  /-- The unspecified contents of both buffers are older than the next free value (log 3). -/
  epochsOld : s.inbuf.epoch < s.free ∧ s.cwbuf.epoch < s.free

/-- A run of `k` steps from `s` is safe: it meets no fault and no refusal, and ends within the invariant. -/
def SafeRun (k : Nat) (s : State) : Prop := ∃ t, Sys2Proof.core.run k s = .next t ∧ t.Inv

/-- The input resets QRE: the reset input, or a CTRL write with SRST = 1 (70_reset_and_hazards.md R330, R331). -/
def Input.isReset : Input → Bool
  | .hardReset => true
  | .write addr v => addr &&& 0x3FFC#14 == 0x0004#14 && v.getLsbD 0
  | .read _ => false

end Sys2Proof.Machine
end

