-- ==== Sys2Proof/Certificates/Slice0/Obligations.lean ====
section
/-! DEFINITION. The statements about QRE for the provers, and the few functions they are written with. Those functions
repeat the spec's own pseudocode in a form that shares nothing with the model's meanings. -/

namespace Sys2Proof.Spec

open Sys2Proof.Machine

/-- The state after a successful completion whose effects leave `s` (60_exceptions.md R303). -/
abbrev completed (s : State) : State := { s with busy := false, done := true }

/-- The state after a failed completion at `s` (60_exceptions.md R304). -/
abbrev failed (s : State) (code : BitVec 4) : State :=
  { s with err := true, errcode := code, busy := false, done := true }

/-- The command completes at `s` with the effects that lead to `t`, and nothing else changes. -/
abbrev Completes (i : Instr) (s t : State) : Prop := exec i s = .next (completed t)

/-- The command fails at `s` with a code, and nothing else changes. -/
abbrev FailsWith (i : Instr) (s : State) (code : BitVec 4) : Prop := exec i s = .next (failed s code)

/-- The XOR of `f 0 .. f (n-1)`. -/
def xorSum (n : Nat) (f : Nat → Byte) : Byte := (List.range n).foldl (fun acc k => acc ^^^ f k) 0#8

/-- The product of two polynomials over GF(2), the second one of degree below 8. -/
def carryless (a b : Nat) : Nat :=
  (List.range 8).foldl (fun acc k => if b.testBit k then acc ^^^ (a <<< k) else acc) 0

/-- The remainder by `x^8 + x^4 + x^3 + x^2 + 1` of a polynomial over GF(2) of degree below 15 (00_scope.md R7). -/
def reduce (w : Nat) : Nat :=
  (List.range 7).foldl (fun w k => if w.testBit (14 - k) then w ^^^ (0x11D <<< (6 - k)) else w) w

/-- The product of GF(2)[x]/(x^8+x^4+x^3+x^2+1), with no table (40_galois_field.md R144 item 2). -/
def fieldMul (a b : Byte) : Byte := BitVec.ofNat 8 (reduce (carryless a.toNat b.toNat))

/-- A power in the field. -/
def fieldPow (x : Byte) : Nat → Byte
  | 0 => 1#8
  | k + 1 => fieldMul (fieldPow x k) x

/-- The coefficient of `x^k` of a sequence with the highest degree first (00_scope.md R9). -/
def coeff (p : List Byte) (k : Nat) : Byte := p.reverse.getD k 0#8

/-- The coefficient of `x^k` of a product. -/
def productCoeff (a b : List Byte) (k : Nat) : Byte := xorSum (k + 1) fun i => fieldMul (coeff a i) (coeff b (k - i))

/-- The `len(a) + len(b) - 1` coefficients of a product, from the highest-degree end: coefficient `k` is the XOR of the
products of all pairs with index sum `k` (41_polynomial.md R168). -/
def product (a b : List Byte) : List Byte :=
  (List.range (a.length + b.length - 1)).map fun k =>
    xorSum (k + 1) fun i => fieldMul (a.getD i 0#8) (b.getD (k - i) 0#8)

/-- The product of `(x + gexp(i))` for `i` in `0..n-1` (41_polynomial.md R171). -/
def generator (n : Nat) : List Byte := (List.range n).foldl (fun g i => product g [1#8, fieldPow 2#8 i]) [1#8]

/-- The value of a polynomial at a point, as a sum of powers. -/
def value (p : List Byte) (x : Byte) : Byte := xorSum p.length fun k => fieldMul (coeff p k) (fieldPow x k)

/-- The low `w` bits of `v`, bit `w-1` first (42_bit_buffer.md preamble). -/
def bits (v w : Nat) : List Bool := (List.range w).map fun k => v / 2 ^ (w - 1 - k) % 2 == 1

/-- The alphabet `0-9A-Z $%*+-./:` by ASCII code, in index order (42_bit_buffer.md R201). -/
def alphabet : List Nat :=
  (List.range 10).map (· + 0x30) ++ (List.range 26).map (· + 0x41) ++
    [0x20, 0x24, 0x25, 0x2A, 0x2B, 0x2D, 0x2E, 0x2F, 0x3A]

/-- The payload bits of a segment, none if a byte is invalid for its mode (42_bit_buffer.md R200 to R203). -/
def payload (mode : Nat) (data : List Byte) : Option (List Bool) :=
  if mode = 0 then
    if ∀ b ∈ data, 0x30 ≤ b.toNat ∧ b.toNat ≤ 0x39 then
      some ((List.range ((data.length + 2) / 3)).flatMap fun g =>
        let grp := (data.drop (3 * g)).take 3
        bits (grp.foldl (fun acc b => 10 * acc + (b.toNat - 0x30)) 0) (3 * grp.length + 1))
    else none
  else if mode = 1 then
    if ∀ b ∈ data, b.toNat ∈ alphabet then
      some ((List.range ((data.length + 1) / 2)).flatMap fun g =>
        let idx := ((data.drop (2 * g)).take 2).map fun b => alphabet.idxOf b.toNat
        if idx.length = 2 then bits (idx.getD 0 0 * 45 + idx.getD 1 0) 11 else bits (idx.getD 0 0) 6)
    else none
  else if mode = 2 then some (data.flatMap fun b => bits b.toNat 8)
  else some ((List.range (data.length / 2)).flatMap fun m =>
    let c := (data.getD (2 * m) 0#8).toNat * 256 + (data.getD (2 * m + 1) 0#8).toNat
    let r := if c ≤ 0x9FFC then c - 0x8140 else c - 0xC140
    if (0x8140 ≤ c ∧ c ≤ 0x9FFC) ∨ (0xE040 ≤ c ∧ c ≤ 0xEBBF) then bits (r / 256 * 0xC0 + r % 256) 13 else [])

/-- The number of byte pairs of Kanji data whose code lies in one of the two ranges, the pairs that are not skipped
(42_bit_buffer.md R203). -/
def keptPairs (data : List Byte) : Nat :=
  ((List.range (data.length / 2)).filter fun m =>
    let c := (data.getD (2 * m) 0#8).toNat * 256 + (data.getD (2 * m + 1) 0#8).toNat
    decide ((0x8140 ≤ c ∧ c ≤ 0x9FFC) ∨ (0xE040 ≤ c ∧ c ≤ 0xEBBF))).length

/-- The width of the length field (42_bit_buffer.md R195, R197). -/
def lengthWidth (mode ver : Nat) : Nat :=
  (if ver < 10 then [10, 9, 8, 8] else if ver < 27 then [12, 11, 16, 10] else [14, 13, 16, 12]).getD mode 0

/-- The bits of a segment of `n` bytes with a given payload (42_bit_buffer.md R196 to R199). -/
def segment (mode n ver : Nat) (pay : List Bool) : List Bool :=
  bits (2 ^ mode) 4 ++ bits (if mode = 3 then n / 2 else n) (lengthWidth mode ver) ++ pay

/-- `sum(data)` over a block list. -/
abbrev dataSum (bs : List Block) : Nat := (bs.map fun b => b.data).sum

/-- `sum(total)` over a block list. -/
abbrev totalSum (bs : List Block) : Nat := (bs.map fun b => b.total).sum

/-- Byte `j` of the byte view of a bit buffer (10_state.md R46). -/
def byteView (bb : List Bool) (j : Nat) : Byte :=
  BitVec.ofNat 8 ((List.range 8).foldl (fun acc k => 2 * acc + (if bb.getD (8 * j + k) false then 1 else 0)) 0)

/-- The data codewords of block `b` (43_reed_solomon.md R230). -/
def blockData (bb : List Bool) (bs : List Block) (b : Nat) : List Byte :=
  (List.range ((bs.map fun x => x.data).getD b 0)).map fun k => byteView bb (dataSum (bs.take b) + k)

/-- Index by index over all sequences, those already exhausted skipped (43_reed_solomon.md R237). -/
def columns (xs : List (List Byte)) : List Byte :=
  (List.range ((xs.map List.length).foldr max 0)).flatMap fun i =>
    (xs.filter fun x => decide (i < x.length)).map fun x => x.getD i 0#8

/-- `ec` is the remainder of `data(x) * x^e` by the generator of degree `e`, written with exactly `e` coefficients
(43_reed_solomon.md R235, R239 item 1). -/
def IsEc (data : List Byte) (e : Nat) (ec : List Byte) : Prop :=
  ec.length = e ∧ ∃ q, ∀ k, coeff (data ++ List.replicate e 0#8) k = productCoeff q (generator e) k ^^^ coeff ec k

/-- The format words of 44_format_info.md R264, ECL by ECL. -/
def formatWords : List Nat := [
  0x77C4, 0x72F3, 0x7DAA, 0x789D, 0x662F, 0x6318, 0x6C41, 0x6976,
  0x5412, 0x5125, 0x5E7C, 0x5B4B, 0x45F9, 0x40CE, 0x4F97, 0x4AA0,
  0x355F, 0x3068, 0x3F31, 0x3A06, 0x24B4, 0x2183, 0x2EDA, 0x2BED,
  0x1689, 0x13BE, 0x1CE7, 0x19D0, 0x0762, 0x0255, 0x0D0C, 0x083B]

/-- The number of a polynomial register (30_encoding.md R111). -/
def regNum : PReg → Nat
  | .p0 => 0
  | .p1 => 1
  | .p2 => 2
  | .p3 => 3

/-- The codes a command can fail with (60_exceptions.md R306); BLKSEL's RESOURCE is "impossible with the default table". -/
def failureCodes : Instr → List (BitVec 4)
  | .glog | .gmul | .pget _ | .peval _ | .bbget | .fmtenc | .fmtchk | .pmod _ _ _ | .rsblk _ | .blksel => [1#4]
  | .ppush _ | .bbput | .seg | .blkadd => [1#4, 4#4]
  | .pnorm _ | .pmul _ _ _ | .pgen _ | .bbbit | .rssyn _ _ => [4#4]
  | .final => [5#4, 2#4]
  | .rsrun => [5#4]
  | .nop | .gexp | .pclr _ | .plen _ | .pmov _ _ | .bbclr | .bblen | .blkclr | .capbits => []

/-- The polynomial register a command writes (30_encoding.md R117, 41_polynomial.md, 43_reed_solomon.md). -/
def writesPoly : Instr → Option PReg
  | .pclr pd | .ppush pd | .pnorm pd | .pmov pd _ | .pmul pd _ _ | .pmod pd _ _ | .pgen pd | .rsblk pd
  | .rssyn pd _ => some pd
  | .nop | .gexp | .glog | .gmul | .pget _ | .plen _ | .peval _ | .bbclr | .bbput | .bbbit | .bblen | .bbget | .seg
  | .final | .blkclr | .blkadd | .blksel | .capbits | .rsrun | .fmtenc | .fmtchk => none

/-- The command has a result (30_encoding.md R117, column RESULT). -/
def hasResult : Instr → Bool
  | .gexp | .glog | .gmul | .pnorm _ | .pget _ | .plen _ | .pmul _ _ _ | .pmod _ _ _ | .peval _ | .bblen | .bbget | .seg
  | .final | .blkadd | .blksel | .capbits | .rsrun | .rssyn _ _ | .fmtenc | .fmtchk => true
  | .nop | .pclr _ | .ppush _ | .pmov _ _ | .pgen _ | .bbclr | .bbput | .bbbit | .blkclr | .rsblk _ => false

end Sys2Proof.Spec

section

open Sys2Proof Sys2Proof.Machine Sys2Proof.Spec

/-! ## Encoding -/

/-- Decoding and encoding agree on every command and every word (30_encoding.md R110 to R112, R117, R120). -/
def Obligations.DecodeIsInverseOfEncode : Prop :=
  ∀ (i : Instr) (w : Word), decode w = .ok i ↔ w = encode i

/-- A word is legal exactly when one row of the opcode map matches it, which is when its opcode is listed and its
reserved and unused bits are 0; any word is accepted, and an illegal one fails with ILLEGAL at its step (30_encoding.md
R112, 60_exceptions.md R301). When the engine's step comes, `lag = 0` or no input left, is the model's choice (log 1, 2). -/
def Obligations.LegalWordsMatchExactlyOneRow : Prop :=
  ∀ w : Word,
    ((∃ i, decode w = .ok i) ↔ (opcodeRows.filter fun r => w &&& r.mask == r.pattern).length = 1) ∧
    ((∃ i, decode w = .ok i) ↔ CommandWord.wellFormed w = true) ∧
    (∀ s : State, s.busy = false → s.err = false →
      (s.hostWrite 0x000C#14 w).busy = true ∧ (s.hostWrite 0x000C#14 w).pending = w) ∧
    (∀ s : State, s.busy = true → (s.lag = 0 ∨ s.inputs = []) → s.pending = w → (¬ ∃ i, decode w = .ok i) →
      step s = .next (failed s 3#4))

/-- Words written out from 30_encoding.md R110, R117 and R120, one or more of each family, decode to their commands. -/
def Obligations.SpecWordsDecodeToTheirCommands : Prop :=
  decode 0x00000000#32 = .ok .nop ∧ decode 0x00000012#32 = .ok .gmul ∧ decode 0x00000120#32 = .ok (.pclr .p1) ∧
  decode 0x00002726#32 = .ok (.pmul .p3 .p1 .p2) ∧ decode 0x00000C29#32 = .ok (.peval .p3) ∧
  decode 0x00000035#32 = .ok .seg ∧ decode 0x00000344#32 = .ok (.rsblk .p3) ∧
  decode 0x00000646#32 = .ok (.rssyn .p2 .p1) ∧ decode 0x00000051#32 = .ok .fmtchk ∧
  decode 0x00000013#32 = .error .reservedOpcode ∧ decode 0x00004010#32 = .error .reservedBits ∧
  decode 0x00000420#32 = .error .unusedField

/-! ## One step -/

/-- While a command is in flight and no input comes before its step, the step is the meaning of the word in PENDING;
so it is in the state `withFetchWord` makes (60_exceptions.md R301, log 2 and 11). -/
def Obligations.StepRunsThePendingCommand : Prop :=
  (∀ (s : State) (i : Instr), s.busy = true → (s.lag = 0 ∨ s.inputs = []) → decode s.pending = .ok i →
    step s = exec i s) ∧
  (∀ (s : State) (i : Instr), step (s.withFetchWord 32 (encode i).toNat) =
    exec i { s with pending := encode i, busy := true, done := false, lag := 0 })

/-- Otherwise the step takes the next input, and an idle QRE with no input does nothing (60_exceptions.md R315,
20_memory.md R92; the queue of inputs is the model's choice, log 1). -/
def Obligations.StepTakesTheNextInputOrIdles : Prop :=
  ∀ s : State, ¬ (s.busy = true ∧ (s.lag = 0 ∨ s.inputs = [])) →
    (s.inputs = [] → step s = .next s) ∧
    (∀ addr rest, s.inputs = .read addr :: rest →
      step s = .next (({ s with inputs := rest, lag := s.lag - 1 } : State).hostRead addr)) ∧
    (∀ addr v rest, s.inputs = .write addr v :: rest →
      step s = .next (({ s with inputs := rest, lag := s.lag - 1 } : State).hostWrite addr v)) ∧
    (∀ rest, s.inputs = .hardReset :: rest →
      step s = .next ({ s with inputs := rest, lag := s.lag - 1 } : State).hardReset)

/-- Every accepted command completes unless a reset comes first: within `lag + 1` steps BUSY is 0 and DONE is 1
(70_reset_and_hazards.md R346; that latency is counted in inputs is the model's choice, log 2). -/
def Obligations.AcceptedCommandCompletes : Prop :=
  ∀ s : State, s.busy = true → (∀ e ∈ s.inputs.take s.lag, e.isReset = false) →
    ∃ k t, k ≤ s.lag + 1 ∧ Sys2Proof.core.run k s = .next t ∧ t.busy = false ∧ t.done = true

/-- The machine never stops: every step, of the engine or of an input, answers a next state (20_memory.md R80,
60_exceptions.md R304, R308). -/
def Obligations.StepAlwaysAnswersANextState : Prop :=
  (∀ s : State, ∃ t, step s = .next t) ∧ ∀ (i : Instr) (s : State), ∃ t, exec i s = .next t

/-! ## The bus -/

/-- A host write of CMD: dropped with OVR while BUSY, dropped silently while ERR, else accepted (60_exceptions.md R301). -/
def Obligations.CommandWriteIsAcceptedOrDropped : Prop :=
  ∀ (s : State) (addr : Addr) (w : Word), addr &&& 0x3FFC#14 = 0x000C#14 →
    (s.busy = true → s.hostWrite addr w = { s with ovr := true }) ∧
    (s.busy = false → s.err = true → s.hostWrite addr w = s) ∧
    (s.busy = false → s.err = false →
      (s.hostWrite addr w).irq = false ∧
      ∃ lag free, s.hostWrite addr w =
        { s with pending := w, done := false, busy := true, lag := lag, free := free } ∧ s.free < free)

/-- Writes while BUSY to CMD, ARG0 to ARG3 and INBUF are dropped and set OVR; OVR is sticky; CTRL writes are never
dropped; writes to read-only and reserved offsets are ignored (60_exceptions.md R302). OVR falls by CLRERR, by a soft
reset or by hardware reset (70_reset_and_hazards.md R330); that the access which does so is the head of the queue of
inputs is the model's choice (log 1). -/
def Obligations.BusyWritesAreDroppedWithOverrun : Prop :=
  (∀ (s : State) (addr : Addr) (v : Word), s.busy = true →
    ((addr &&& 0x3FFC#14) ∈ [0x000C#14, 0x0010#14, 0x0014#14, 0x0018#14, 0x001C#14] ∨
      (0x1000 ≤ addr.toNat ∧ addr.toNat ≤ 0x1FFF)) →
    s.hostWrite addr v = { s with ovr := true }) ∧
  (∀ (s t : State), step s = .next t → s.ovr = true → t.ovr = false →
    ∃ rest, s.inputs = .hardReset :: rest ∨
      ∃ addr v, s.inputs = .write addr v :: rest ∧ addr &&& 0x3FFC#14 = 0x0004#14 ∧
        (v.getLsbD 0 = true ∨ v.getLsbD 1 = true)) ∧
  (∀ (s : State) (addr : Addr) (v : Word), addr &&& 0x3FFC#14 = 0x0004#14 →
    (s.hostWrite addr v).ie = v.getLsbD 2 ∧ (v.getLsbD 1 = true → (s.hostWrite addr v).ovr = false)) ∧
  (∀ (s : State) (addr : Addr) (v : Word),
    ((addr &&& 0x3FFC#14) ∈ [0x0000#14, 0x0008#14, 0x0020#14] ∨ (0x0024 ≤ addr.toNat ∧ addr.toNat ≤ 0x0FFF) ∨
      0x2000 ≤ addr.toNat) →
    s.hostWrite addr v = s)

/-- A CTRL write performs SRST, then CLRERR, then IE, then DONEACK, in flight or not; bits 31:4 are ignored; a CTRL
read returns IE in bit 2 (10_state.md R33, R35). What SRST does is `SoftResetKeepsOnlyTheBuffers`. -/
def Obligations.CtrlWriteActsInOrder : Prop :=
  ∀ (s : State) (addr : Addr) (v : Word), addr &&& 0x3FFC#14 = 0x0004#14 →
    (let r := if v.getLsbD 0 then s.softReset else s
     let c := if v.getLsbD 1 then { r with err := false, errcode := 0#4, ovr := false } else r
     s.hostWrite addr v = { c with ie := v.getLsbD 2, done := if v.getLsbD 3 then false else c.done }) ∧
    (v.getLsbD 0 = true → s.hostWrite addr (v ||| 0x2#32) = s.hostWrite addr v) ∧
    (∀ v' : Word, v' &&& 0xF#32 = v &&& 0xF#32 → s.hostWrite addr v' = s.hostWrite addr v) ∧
    (s.hostRead addr).rdata = if s.ie then 0x4#32 else 0x0#32

/-- A soft reset, a CTRL write with bit 0 set, sets every element as hardware reset does, keeps INBUF, keeps CWBUF if
BUSY was 0 and makes it unspecified if BUSY was 1, and then writes IE (70_reset_and_hazards.md R331). That an unspecified
byte is `Config.cwbufFill` of the counter (log 3, 4), and what PENDING's word (log 6) and the model's own fields `lag`
(log 2), `free` (log 3), `inputs` (log 1) and `rdata` (log 7) are then, is the model's choice. -/
def Obligations.SoftResetKeepsOnlyTheBuffers : Prop :=
  ∀ (s : State) (addr : Addr) (v : Word), addr &&& 0x3FFC#14 = 0x0004#14 → v.getLsbD 0 = true →
    ∃ cw free, s.hostWrite addr v =
        { State.reset with ie := v.getLsbD 2, inbuf := s.inbuf, cwbuf := cw, free := free, inputs := s.inputs,
                           rdata := s.rdata } ∧
      (s.busy = false → cw = s.cwbuf) ∧
      (s.busy = true → ∀ a, (s.hostWrite addr v).cwbufByte a = Config.cwbufFill s.free a) ∧
      ∀ a, (s.hostWrite addr v).inbufByte a = s.inbufByte a

/-- Hardware reset sets every element of the table of 70_reset_and_hazards.md R330; INBUF and CWBUF show unspecified
bytes, which no engine step changes in INBUF; IRQ is 0; the ID register reads its constant (10_state.md R31). -/
def Obligations.HardResetSetsEveryElement : Prop :=
  ∀ s : State,
    (let t := s.hardReset
     t.ie = false ∧ t.statusWord = 0#32 ∧ t.arg0 = 0#32 ∧ t.arg1 = 0#32 ∧ t.arg2 = 0#32 ∧ t.arg3 = 0#32 ∧
     t.result = 0#32 ∧ t.busy = false ∧ (∀ k, t.poly.get k = []) ∧ t.bb = [] ∧ t.blk = [] ∧ t.irq = false ∧
     (∀ a, t.inbufByte a = Config.inbufFill s.free a ∧ t.cwbufByte a = Config.cwbufFill s.free a) ∧
     (t.hostRead 0x0000#14).rdata = 0x51524531#32 ∧
     t = { State.reset with inbuf := t.inbuf, cwbuf := t.cwbuf, free := t.free, inputs := s.inputs, rdata := s.rdata }) ∧
    ∀ (i : Instr) (t : State), exec i s = .next t → ∀ a, t.inbufByte a = s.inbufByte a

/-- What a host read of each register returns (10_state.md R30, R31, R35 to R40; 20_memory.md R82). -/
def Obligations.RegisterReadsReturnTheirFields : Prop :=
  ∀ (s : State) (addr : Addr),
    (let a := addr &&& 0x3FFC#14
     let r := (s.hostRead addr).rdata
     (a = 0x0000#14 → r = 0x51524531#32) ∧
     (a = 0x0004#14 → r.toNat = 4 * s.ie.toNat) ∧
     (a = 0x0008#14 → r.toNat = s.busy.toNat + 2 * s.done.toNat + 4 * s.err.toNat + 8 * s.ovr.toNat + 16 * s.errcode.toNat) ∧
     (a = 0x000C#14 → r = 0#32) ∧
     (a = 0x0010#14 → r = s.arg0) ∧ (a = 0x0014#14 → r = s.arg1) ∧
     (a = 0x0018#14 → r = s.arg2) ∧ (a = 0x001C#14 → r = s.arg3) ∧
     (a = 0x0020#14 → s.busy = false → r = s.result) ∧
     (0x0024 ≤ addr.toNat → addr.toNat ≤ 0x0FFF → r = 0#32))

/-- The INBUF window: a read while idle returns the four bytes, little-endian; a write while idle stores them and leaves
every other byte alone; while BUSY a write is dropped with OVR and a read is unspecified (20_memory.md R83). That the
unspecified word is `Config.unspecRead` of the counter is the model's choice (log 5). -/
def Obligations.InbufWindowReadsAndWrites : Prop :=
  ∀ (s : State) (addr : Addr) (v : Word), 0x1000 ≤ addr.toNat → addr.toNat ≤ 0x1FFF →
    (let b := (addr.toNat - 0x1000) / 4 * 4
     (s.busy = false →
       (s.hostRead addr).rdata.toNat = (s.inbufByte b).toNat + 2 ^ 8 * (s.inbufByte (b + 1)).toNat +
         2 ^ 16 * (s.inbufByte (b + 2)).toNat + 2 ^ 24 * (s.inbufByte (b + 3)).toNat) ∧
     (s.busy = false →
       (∀ k, k < 4 → ((s.hostWrite addr v).inbufByte (b + k)).toNat = v.toNat / 2 ^ (8 * k) % 2 ^ 8) ∧
       (∀ a, (a < b ∨ b + 4 ≤ a) → (s.hostWrite addr v).inbufByte a = s.inbufByte a) ∧
       s.hostWrite addr v = { s with inbuf := (s.hostWrite addr v).inbuf } ∧
       ((s.hostWrite addr v).hostRead addr).rdata = v) ∧
     (s.busy = true → s.hostWrite addr v = { s with ovr := true }) ∧
     (s.busy = true → (s.hostRead addr).rdata = Config.unspecRead s.free))

/-- The BITBUF and CWBUF windows: a read while idle returns four bytes, little-endian; a read while BUSY is unspecified;
writes are ignored and do not set OVR (20_memory.md R84, R85). That the unspecified word is `Config.unspecRead` of the
counter is the model's choice (log 5). -/
def Obligations.ReadOnlyWindowsShowBitBufferAndCodewords : Prop :=
  ∀ (s : State) (addr : Addr) (v : Word), 0x2000 ≤ addr.toNat →
    (let j := (addr.toNat % 0x1000) / 4 * 4
     (s.busy = false → addr.toNat ≤ 0x2FFF →
       (s.hostRead addr).rdata.toNat = (byteView s.bb j).toNat + 2 ^ 8 * (byteView s.bb (j + 1)).toNat +
         2 ^ 16 * (byteView s.bb (j + 2)).toNat + 2 ^ 24 * (byteView s.bb (j + 3)).toNat) ∧
     (s.busy = false → 0x3000 ≤ addr.toNat →
       (s.hostRead addr).rdata.toNat = (s.cwbufByte j).toNat + 2 ^ 8 * (s.cwbufByte (j + 1)).toNat +
         2 ^ 16 * (s.cwbufByte (j + 2)).toNat + 2 ^ 24 * (s.cwbufByte (j + 3)).toNat) ∧
     (s.busy = true → (s.hostRead addr).rdata = Config.unspecRead s.free) ∧
     s.hostWrite addr v = s)

/-- Bits 1:0 of an offset are ignored by reads and writes (20_memory.md R88). -/
def Obligations.AlignmentBitsAreIgnored : Prop :=
  ∀ (s : State) (addr : Addr) (v : Word),
    s.hostRead addr = s.hostRead (addr &&& 0x3FFC#14) ∧ s.hostWrite addr v = s.hostWrite (addr &&& 0x3FFC#14) v

/-- Reads have no side effects, and reading twice while idle returns the same word. A write elsewhere than at CMD and CTRL
changes, while idle, at most the ARG register or the four INBUF bytes of the word it names, and doing it twice is doing
it once; a write to a read-only or reserved offset has no effect at all (20_memory.md R90). The counter of free values,
which a read while BUSY moves, and the record of the read data are the model's own (log 3, 7). -/
def Obligations.ReadsHaveNoSideEffectsAndPlainWritesAreIdempotent : Prop :=
  (∀ (s : State) (addr : Addr), ∃ r f, s.hostRead addr = { s with rdata := r, free := f } ∧ (s.busy = false → f = s.free)) ∧
  (∀ (s : State) (addr : Addr), s.busy = false → (s.hostRead addr).hostRead addr = s.hostRead addr) ∧
  (∀ (s : State) (addr : Addr) (v : Word), addr &&& 0x3FFC#14 ≠ 0x0004#14 → addr &&& 0x3FFC#14 ≠ 0x000C#14 →
    (s.hostWrite addr v).hostWrite addr v = s.hostWrite addr v ∧
    (s.busy = false → ∃ a0 a1 a2 a3 ib,
      s.hostWrite addr v = { s with arg0 := a0, arg1 := a1, arg2 := a2, arg3 := a3, inbuf := ib } ∧
      (addr.toNat < 0x1000 ∨ 0x2000 ≤ addr.toNat → ib = s.inbuf) ∧
      (0x1000 ≤ addr.toNat → addr.toNat ≤ 0x1FFF →
        let b := (addr.toNat - 0x1000) / 4 * 4
        target addr = .inbuf b ∧
        ∀ a, (a < b ∨ b + 4 ≤ a) → (s.hostWrite addr v).inbufByte a = s.inbufByte a) ∧
      (addr &&& 0x3FFC#14 ≠ 0x0010#14 → a0 = s.arg0) ∧ (addr &&& 0x3FFC#14 ≠ 0x0014#14 → a1 = s.arg1) ∧
      (addr &&& 0x3FFC#14 ≠ 0x0018#14 → a2 = s.arg2) ∧ (addr &&& 0x3FFC#14 ≠ 0x001C#14 → a3 = s.arg3)) ∧
    ((addr &&& 0x3FFC#14) ∈ [0x0000#14, 0x0008#14, 0x0020#14] ∨ (0x0024 ≤ addr.toNat ∧ addr.toNat ≤ 0x0FFF) ∨
        0x2000 ≤ addr.toNat →
      s.hostWrite addr v = s))

/-- A write of ARG0 to ARG3 while idle, also while ERR = 1, puts the word there and nowhere else; a read returns it
(10_state.md R38). -/
def Obligations.ArgumentWritesReadBack : Prop :=
  ∀ (s : State) (addr : Addr) (v : Word), s.busy = false →
    (addr &&& 0x3FFC#14 = 0x0010#14 → s.hostWrite addr v = { s with arg0 := v }) ∧
    (addr &&& 0x3FFC#14 = 0x0014#14 → s.hostWrite addr v = { s with arg1 := v }) ∧
    (addr &&& 0x3FFC#14 = 0x0018#14 → s.hostWrite addr v = { s with arg2 := v }) ∧
    (addr &&& 0x3FFC#14 = 0x001C#14 → s.hostWrite addr v = { s with arg3 := v }) ∧
    ((addr &&& 0x3FFC#14) ∈ [0x0010#14, 0x0014#14, 0x0018#14, 0x001C#14] →
      ((s.hostWrite addr v).hostRead addr).rdata = v)

/-- Reads while BUSY = 1: RESULT and the windows return a fresh free value at each read, the other registers their
current values, and nothing of QRE changes (70_reset_and_hazards.md R341). That the unspecified word is
`Config.unspecRead` of the counter (log 5), which then goes up by one (log 3), is the model's choice. -/
def Obligations.ReadsWhileBusyAreUnspecifiedOrCurrent : Prop :=
  ∀ (s : State) (addr : Addr), s.busy = true →
    ((addr &&& 0x3FFC#14 = 0x0020#14 ∨ 0x1000 ≤ addr.toNat) →
      s.hostRead addr = { s with rdata := Config.unspecRead s.free, free := s.free + 1 }) ∧
    (addr.toNat < 0x1000 → addr &&& 0x3FFC#14 ≠ 0x0020#14 →
      ∃ v, s.hostRead addr = { s with rdata := v } ∧
        (addr &&& 0x3FFC#14 = 0x0008#14 → v = s.statusWord) ∧
        (addr &&& 0x3FFC#14 = 0x0004#14 → v.toNat = 4 * s.ie.toNat) ∧
        (addr &&& 0x3FFC#14 = 0x0000#14 → v = 0x51524531#32) ∧
        (addr &&& 0x3FFC#14 = 0x0010#14 → v = s.arg0) ∧ (addr &&& 0x3FFC#14 = 0x0014#14 → v = s.arg1) ∧
        (addr &&& 0x3FFC#14 = 0x0018#14 → v = s.arg2) ∧ (addr &&& 0x3FFC#14 = 0x001C#14 → v = s.arg3) ∧
        ((addr &&& 0x3FFC#14 = 0x000C#14 ∨ 0x0024 ≤ addr.toNat) → v = 0#32))

/-- IRQ is IE and DONE; it is 0 after reset; every completion, successful or failed, raises it if IE = 1; DONEACK,
IE <- 0, an acceptance and a reset take it to 0 (10_state.md R41, 60_exceptions.md R307). -/
def Obligations.InterruptFollowsDoneAndEnable : Prop :=
  (∀ s : State, s.irq = (s.ie && s.done)) ∧ State.reset.irq = false ∧
  (∀ (i : Instr) (s t : State), exec i s = .next t → t.irq = s.ie) ∧
  (∀ s : State, s.hardReset.irq = false) ∧
  (∀ (s : State) (v : Word), v.getLsbD 3 = true ∨ v.getLsbD 2 = false ∨ v.getLsbD 0 = true →
    (s.hostWrite 0x0004#14 v).irq = false) ∧
  (∀ (s : State) (w : Word), s.busy = false → s.err = false → (s.hostWrite 0x000C#14 w).irq = false)

/-! ## Failure, its return, and the frames of the engine's step -/

/-- After a failed command, a CTRL write with CLRERR gives back every register, buffer and polynomial register as it was
before the command, and the next command is accepted (60_exceptions.md R309). -/
def Obligations.ClearErrorReturnsFromAFailure : Prop :=
  ∀ (i : Instr) (s t : State) (v w : Word), s.err = false → exec i s = .next t → t.err = true →
    v.getLsbD 0 = false → v.getLsbD 1 = true →
    t.hostWrite 0x0004#14 v = { s with busy := false, done := !v.getLsbD 3, err := false, errcode := 0#4, ovr := false,
                                       ie := v.getLsbD 2 } ∧
    ((t.hostWrite 0x0004#14 v).hostWrite 0x000C#14 w).busy = true ∧
    t.hostWrite 0x000C#14 w = t

/-- A step of the engine is all or nothing: it completes and leaves ERR, ERRCODE and OVR, or it fails and changes
nothing but STATUS, with one code in 1..5 (60_exceptions.md R303 to R305). -/
def Obligations.FailureIsAllOrNothing : Prop :=
  ∀ (i : Instr) (s t : State), exec i s = .next t →
    (t.busy = false ∧ t.done = true ∧ t.err = s.err ∧ t.errcode = s.errcode ∧ t.ovr = s.ovr) ∨
    ∃ k : BitVec 4, 1 ≤ k.toNat ∧ k.toNat ≤ 5 ∧ t = failed s k

/-- The codes each command can fail with, and each of them occurs (60_exceptions.md R306). -/
def Obligations.FailureCodesOfEachCommand : Prop :=
  (∀ (i : Instr) (s t : State), s.err = false → exec i s = .next t → t.err = true → t.errcode ∈ failureCodes i) ∧
  ∀ (i : Instr), ∀ k ∈ failureCodes i, ∃ s : State, s.err = false ∧ FailsWith i s k

/-- No command writes ARG0 to ARG3, INBUF, IE, OVR or PENDING, and one without a result leaves RESULT
(10_state.md R38, R39, R48; 30_encoding.md R116; 70_reset_and_hazards.md R343). -/
def Obligations.EngineNeverWritesHostRegisters : Prop :=
  ∀ (i : Instr) (s t : State), exec i s = .next t →
    t.arg0 = s.arg0 ∧ t.arg1 = s.arg1 ∧ t.arg2 = s.arg2 ∧ t.arg3 = s.arg3 ∧ t.ie = s.ie ∧ t.ovr = s.ovr ∧
    t.pending = s.pending ∧ t.inbuf = s.inbuf ∧ (∀ a, t.inbufByte a = s.inbufByte a) ∧
    t.inputs = s.inputs ∧ t.rdata = s.rdata ∧ t.lag = s.lag ∧ t.free = s.free ∧
    (hasResult i = false → t.result = s.result)

/-- The bit buffer changes only by BBCLR, which empties it, and by appends of BBPUT, BBBIT, SEG and FINAL; no command
changes a bit once appended (10_state.md R45). -/
def Obligations.BitBufferIsAppendOnly : Prop :=
  ∀ (i : Instr) (s t : State), exec i s = .next t →
    (i = .bbclr → t.bb = []) ∧
    (i ≠ .bbclr → (∀ k, k < s.bb.length → t.bb[k]? = s.bb[k]?) ∧ s.bb.length ≤ t.bb.length) ∧
    (i ≠ .bbclr → i ≠ .bbput → i ≠ .bbbit → i ≠ .seg → i ≠ .final → t.bb = s.bb)

/-- A command writes no polynomial register but its PD, the block list only by BLKCLR, BLKADD and BLKSEL, and CWBUF only
by RSRUN, below `sum(total)` (41_polynomial.md R162 to R172, 43_reed_solomon.md R231 to R238, 10_state.md R43, R47, R49). -/
def Obligations.EngineWritesOnlyTheNamedState : Prop :=
  ∀ (i : Instr) (s t : State), exec i s = .next t →
    (∀ k, writesPoly i ≠ some k → t.poly.get k = s.poly.get k) ∧
    (i ≠ .blkclr → i ≠ .blkadd → i ≠ .blksel → t.blk = s.blk) ∧
    (i ≠ .rsrun → ∀ a, t.cwbufByte a = s.cwbufByte a) ∧
    (i = .rsrun → s.Inv → ∀ a, totalSum s.blk ≤ a → t.cwbufByte a = s.cwbufByte a)

/-! ## The GF unit -/

/-- EXP and LOG: the recurrence of the source and its inverse (10_state.md R50, R51). -/
def Obligations.FieldRomsFollowTheirRecurrence : Prop :=
  (∀ i, i < 8 → (expRom i).toNat = 2 ^ i) ∧
  (∀ i, 8 ≤ i → i < 256 → expRom i = expRom (i - 4) ^^^ expRom (i - 5) ^^^ expRom (i - 6) ^^^ expRom (i - 8)) ∧
  expRom 255 = 1#8 ∧ expRom 0 = 1#8 ∧
  (∀ a : Byte, a ≠ 0#8 → ∃ i, i < 255 ∧ expRom i = a ∧ ∀ j, j < 255 → expRom j = a → j = i) ∧
  (∀ i, i < 255 → logRom (expRom i) = i) ∧ logRom 1#8 = 0

/-- The field laws of 40_galois_field.md R144: the table product is the product of GF(2)[x] modulo
`x^8+x^4+x^3+x^2+1`, with all the laws the rule lists. -/
def Obligations.TableProductIsTheFieldProduct : Prop :=
  (∀ a b : Byte, gmul a b = fieldMul a b) ∧
  (∀ a b : Byte, gmul a b = gmul b a) ∧
  (∀ a b c : Byte, gmul (gmul a b) c = gmul a (gmul b c)) ∧
  (∀ a b c : Byte, gmul a (b ^^^ c) = gmul a b ^^^ gmul a c) ∧
  (∀ a : Byte, gmul 1#8 a = a ∧ gmul 0#8 a = 0#8 ∧ a ^^^ a = 0#8) ∧
  (∀ a b : Byte, gmul a b = 0#8 → a = 0#8 ∨ b = 0#8) ∧
  (∀ i j : Int, gmul (gexp i) (gexp j) = gexp (i + j) ∧ gexp (i + 255) = gexp i) ∧
  (∀ a : Byte, a ≠ 0#8 → gmul a (gexp (255 - (logRom a : Int))) = 1#8) ∧
  (∀ (i : Instr) (s t : State), i = .gexp ∨ i = .glog ∨ i = .gmul → s.err = false → exec i s = .next t → t.err = false →
    t.result.toNat < 256)

/-- NOP completes and changes nothing but BUSY and DONE, so IRQ is IE; its opcode with any other bit set is illegal
(40_galois_field.md R140). -/
def Obligations.NopCompletes : Prop :=
  encode .nop = 0x00000000#32 ∧ (∀ s : State, Completes .nop s s ∧ (completed s).irq = s.ie) ∧
  ∀ w : Word, w &&& 0xFF#32 = 0#32 → w ≠ 0#32 → ¬ ∃ i, decode w = .ok i

/-- GEXP returns the power of 2 in the field with exponent `sint(ARG0) mod 255`, never 0, and never fails
(40_galois_field.md R141). -/
def Obligations.GexpReturnsAPowerOfTwo : Prop :=
  encode .gexp = 0x00000010#32 ∧
  ∀ s : State, ∃ e : Nat, (e : Int) = s.arg0.toInt % 255 ∧ e < 255 ∧
    Completes .gexp s { s with result := (fieldPow 2#8 e).setWidth 32 } ∧
    Completes .gexp s { s with result := (expRom e).setWidth 32 } ∧ (expRom e).setWidth 32 ≠ 0#32

/-- GLOG returns LOG[ARG0] for ARG0 in 1..255, which GEXP takes back to ARG0, and fails with DOMAIN otherwise
(40_galois_field.md R142). -/
def Obligations.GlogReturnsTheLogarithm : Prop :=
  encode .glog = 0x00000011#32 ∧
  ∀ s : State,
    (1 ≤ s.arg0.toNat → s.arg0.toNat ≤ 255 → ∃ n, n < 255 ∧
      Completes .glog s { s with result := BitVec.ofNat 32 n } ∧
      n = logRom (BitVec.ofNat 8 s.arg0.toNat) ∧ (fieldPow 2#8 n).toNat = s.arg0.toNat) ∧
    (s.arg0.toNat < 1 ∨ 255 < s.arg0.toNat → FailsWith .glog s 1#4)

/-- GMUL returns the field product of two bytes and fails with DOMAIN if an operand is above 255
(40_galois_field.md R143). -/
def Obligations.GmulReturnsTheFieldProduct : Prop :=
  encode .gmul = 0x00000012#32 ∧
  ∀ s : State,
    (s.arg0.toNat ≤ 255 → s.arg1.toNat ≤ 255 →
      Completes .gmul s { s with result := BitVec.ofNat 32 (reduce (carryless s.arg0.toNat s.arg1.toNat)) }) ∧
    (255 < s.arg0.toNat ∨ 255 < s.arg1.toNat → FailsWith .gmul s 1#4)

/-! ## The polynomial unit -/

/-- PCLR empties, PPUSH appends a coefficient at the low-degree end, PMOV copies exactly; the failures of PPUSH in their
order (41_polynomial.md R162, R163, R167). -/
def Obligations.PolynomialRegistersAreLoaded : Prop :=
  ∀ (s : State) (pd pa : PReg),
    (encode (.pclr pd)).toNat = 0x20 + 2 ^ 8 * regNum pd ∧ (encode (.ppush pd)).toNat = 0x21 + 2 ^ 8 * regNum pd ∧
    (encode (.pmov pd pa)).toNat = 0x25 + 2 ^ 8 * regNum pd + 2 ^ 10 * regNum pa ∧
    Completes (.pclr pd) s { s with poly := s.poly.set pd [] } ∧
    Completes (.pmov pd pa) s { s with poly := s.poly.set pd (s.poly.get pa) } ∧
    (s.arg0.toNat ≤ 255 → (s.poly.get pd).length ≠ 512 →
      Completes (.ppush pd) s { s with poly := s.poly.set pd (s.poly.get pd ++ [s.arg0.setWidth 8]) }) ∧
    (255 < s.arg0.toNat → FailsWith (.ppush pd) s 1#4) ∧
    (s.arg0.toNat ≤ 255 → (s.poly.get pd).length = 512 → FailsWith (.ppush pd) s 4#4)

/-- PLEN returns the length; PGET returns coefficient ARG0, or fails with DOMAIN beyond the length
(41_polynomial.md R165, R166). -/
def Obligations.PolynomialRegistersAreRead : Prop :=
  ∀ (s : State) (pa : PReg),
    (encode (.pget pa)).toNat = 0x23 + 2 ^ 10 * regNum pa ∧ (encode (.plen pa)).toNat = 0x24 + 2 ^ 10 * regNum pa ∧
    Completes (.plen pa) s { s with result := BitVec.ofNat 32 (s.poly.get pa).length } ∧
    (∀ h : s.arg0.toNat < (s.poly.get pa).length,
      Completes (.pget pa) s { s with result := ((s.poly.get pa)[s.arg0.toNat]).setWidth 32 }) ∧
    ((s.poly.get pa).length ≤ s.arg0.toNat → FailsWith (.pget pa) s 1#4)

/-- `strip` removes exactly the leading zeros; PNORM strips, then appends ARG0 zeros, and fails with RESOURCE if that
is more than 512 coefficients (41_polynomial.md R160, R161, R164). -/
def Obligations.PnormStripsAndShifts : Prop :=
  (∀ p : List Byte, ∃ k, p = List.replicate k 0#8 ++ strip p ∧ (strip p = [] ∨ (strip p).headD 0#8 ≠ 0#8)) ∧
  ∀ (s : State) (pd : PReg),
    (let r := (s.poly.get pd).dropWhile (· == 0#8)
     (encode (.pnorm pd)).toNat = 0x22 + 2 ^ 8 * regNum pd ∧
     (r.length + s.arg0.toNat ≤ 512 →
       Completes (.pnorm pd) s { s with poly := s.poly.set pd (r ++ List.replicate s.arg0.toNat 0#8)
                                        result := BitVec.ofNat 32 (r.length + s.arg0.toNat) }) ∧
     (512 < r.length + s.arg0.toNat → FailsWith (.pnorm pd) s 4#4))

/-- PMUL returns the stripped product, coefficient by coefficient the XOR of the field products of all index pairs with
that sum; an empty factor gives the empty product; a product of more than 512 coefficients fails with RESOURCE; the
order of the factors does not matter (41_polynomial.md R168). -/
def Obligations.PmulReturnsTheProduct : Prop :=
  ∀ (s : State) (pd pa pb : PReg),
    (let a := s.poly.get pa
     let b := s.poly.get pb
     let r := (product a b).dropWhile (· == 0#8)
     (encode (.pmul pd pa pb)).toNat = 0x26 + 2 ^ 8 * regNum pd + 2 ^ 10 * regNum pa + 2 ^ 12 * regNum pb ∧
     (a = [] ∨ b = [] → Completes (.pmul pd pa pb) s { s with poly := s.poly.set pd [], result := 0#32 }) ∧
     (a ≠ [] → b ≠ [] → a.length + b.length - 1 ≤ 512 →
       Completes (.pmul pd pa pb) s { s with poly := s.poly.set pd r, result := BitVec.ofNat 32 r.length }) ∧
     (a ≠ [] → b ≠ [] → 512 < a.length + b.length - 1 → FailsWith (.pmul pd pa pb) s 4#4) ∧
     exec (.pmul pd pa pb) s = exec (.pmul pd pb pa) s)

/-- PMOD returns the remainder of polynomial division: dividend = q * divisor + remainder, the remainder shorter than
the divisor, and stripped unless it is the unchanged shorter dividend. It fails with DOMAIN for an empty divisor, a
divisor with a leading zero, and a dividend that is not shorter and has a leading zero (41_polynomial.md R169, R170). -/
def Obligations.PmodReturnsTheRemainder : Prop :=
  ∀ (s : State) (pd pa pb : PReg),
    (let a := s.poly.get pa
     let b := s.poly.get pb
     (encode (.pmod pd pa pb)).toNat = 0x27 + 2 ^ 8 * regNum pd + 2 ^ 10 * regNum pa + 2 ^ 12 * regNum pb ∧
     (b ≠ [] → b.headD 0#8 ≠ 0#8 → (a.length < b.length ∨ a.headD 0#8 ≠ 0#8) →
       ∃ r q, Completes (.pmod pd pa pb) s { s with poly := s.poly.set pd r, result := BitVec.ofNat 32 r.length } ∧
         r.length < b.length ∧ (a.length < b.length → r = a) ∧
         (b.length ≤ a.length → r = [] ∨ r.headD 0#8 ≠ 0#8) ∧
         ∀ k, coeff a k = productCoeff q b k ^^^ coeff r k) ∧
     (b = [] → FailsWith (.pmod pd pa pb) s 1#4) ∧
     (b ≠ [] → b.headD 0#8 = 0#8 → FailsWith (.pmod pd pa pb) s 1#4) ∧
     (b ≠ [] → b.length ≤ a.length → a.headD 0#8 = 0#8 → FailsWith (.pmod pd pa pb) s 1#4))

/-- PGEN returns the product of the factors `(1, gexp(i))`, of length `n + 1` with leading coefficient 1 and roots
`gexp(0) .. gexp(n-1)`, with no zero coefficient for `n` in 1..68, and fails with RESOURCE for a degree of 512 or more
(41_polynomial.md R171). -/
def Obligations.PgenReturnsTheGenerator : Prop :=
  ∀ (s : State) (pd : PReg),
    (encode (.pgen pd)).toNat = 0x28 + 2 ^ 8 * regNum pd ∧
    (s.arg0.toNat + 1 ≤ 512 → ∃ g,
      Completes (.pgen pd) s { s with poly := s.poly.set pd g } ∧ g = generator s.arg0.toNat ∧
      g.length = s.arg0.toNat + 1 ∧ g.headD 0#8 = 1#8 ∧ (∀ j, j < s.arg0.toNat → value g (gexp (j : Int)) = 0#8) ∧
      (1 ≤ s.arg0.toNat → s.arg0.toNat ≤ 68 → ∀ c ∈ g, c ≠ 0#8)) ∧
    (512 < s.arg0.toNat + 1 → FailsWith (.pgen pd) s 4#4)

/-- PEVAL returns the sum of coefficient times power of the point, and fails with DOMAIN if the point is above 255
(41_polynomial.md R172). -/
def Obligations.PevalReturnsTheValue : Prop :=
  ∀ (s : State) (pa : PReg),
    (encode (.peval pa)).toNat = 0x29 + 2 ^ 10 * regNum pa ∧
    (s.arg0.toNat ≤ 255 →
      Completes (.peval pa) s { s with result := (value (s.poly.get pa) (s.arg0.setWidth 8)).setWidth 32 }) ∧
    (255 < s.arg0.toNat → FailsWith (.peval pa) s 1#4)

/-! ## The pack sequencer -/

/-- BBCLR empties the bit buffer; BBPUT appends the low ARG1 bits of ARG0, most significant first; BBBIT appends the
truth value of ARG0; their failures in order (42_bit_buffer.md R190 to R192). -/
def Obligations.BitBufferCommandsAppend : Prop :=
  (encode .bbclr = 0x30#32 ∧ encode .bbput = 0x31#32 ∧ encode .bbbit = 0x32#32) ∧
  ∀ s : State,
    Completes .bbclr s { s with bb := [] } ∧
    (s.arg1.toNat ≤ 32 → s.bb.length + s.arg1.toNat ≤ 32768 →
      Completes .bbput s { s with bb := s.bb ++ bits s.arg0.toNat s.arg1.toNat }) ∧
    (32 < s.arg1.toNat → FailsWith .bbput s 1#4) ∧
    (s.arg1.toNat ≤ 32 → 32768 < s.bb.length + s.arg1.toNat → FailsWith .bbput s 4#4) ∧
    (s.bb.length + 1 ≤ 32768 → Completes .bbbit s { s with bb := s.bb ++ [decide (s.arg0 ≠ 0#32)] }) ∧
    (32768 < s.bb.length + 1 → FailsWith .bbbit s 4#4)

/-- BBLEN returns the bit length; BBGET returns bit ARG0, or fails with DOMAIN at or beyond the length
(42_bit_buffer.md R193, R194). -/
def Obligations.BitBufferIsRead : Prop :=
  (encode .bblen = 0x33#32 ∧ encode .bbget = 0x34#32) ∧
  ∀ s : State,
    Completes .bblen s { s with result := BitVec.ofNat 32 s.bb.length } ∧
    (∀ h : s.arg0.toNat < s.bb.length,
      Completes .bbget s { s with result := if s.bb[s.arg0.toNat] then 1#32 else 0#32 }) ∧
    (s.bb.length ≤ s.arg0.toNat → FailsWith .bbget s 1#4)

/-- The byte view: bit `8j + k` of the buffer is bit `7 - k` of byte `j`, and bits beyond the length read 0
(10_state.md R46, 20_memory.md R89). -/
def Obligations.ByteViewIsMostSignificantFirst : Prop :=
  ∀ (bb : List Bool) (j k : Nat), k < 8 → (bbByte bb j).getLsbD (7 - k) = bb.getD (8 * j + k) false

/-- SEG: the failures of 42_bit_buffer.md R199 in their order, else the mode indicator, the length field and the
payload are appended and RESULT is their number (R195 to R203). -/
def Obligations.SegAppendsOneSegment : Prop :=
  encode .seg = 0x35#32 ∧
  ∀ s : State,
    (let mode := s.arg0.toNat
     let n := s.arg2.toNat
     let ver := s.arg3.toNat
     let data := (List.range n).map fun k => s.inbufByte (s.arg1.toNat + k)
     (3 < mode ∨ ver < 1 ∨ 40 < ver ∨ 4096 < s.arg1.toNat + n ∨ (mode = 3 ∧ n % 2 = 1) → FailsWith .seg s 1#4) ∧
     (mode ≤ 3 → 1 ≤ ver → ver ≤ 40 → s.arg1.toNat + n ≤ 4096 → ¬ (mode = 3 ∧ n % 2 = 1) →
       (payload mode data = none → FailsWith .seg s 1#4) ∧
       ∀ pay, payload mode data = some pay →
         (s.bb.length + (segment mode n ver pay).length ≤ 32768 →
           Completes .seg s { s with bb := s.bb ++ segment mode n ver pay
                                     result := BitVec.ofNat 32 (segment mode n ver pay).length }) ∧
         (32768 < s.bb.length + (segment mode n ver pay).length → FailsWith .seg s 4#4)))

/-- The number of bits SEG appends: 4 for the indicator, the length field, and the payload length of each mode; for Kanji
13 bits for every pair whose code lies in one of the two ranges, and none for any other (42_bit_buffer.md R196, R197,
R199 to R203). -/
def Obligations.SegResultCountsItsBits : Prop :=
  ∀ s t : State, s.err = false → exec .seg s = .next t → t.err = false →
    (let n := s.arg2.toNat
     let head := 4 + lengthWidth s.arg0.toNat s.arg3.toNat
     let data := (List.range n).map fun k => s.inbufByte (s.arg1.toNat + k)
     (s.arg0.toNat = 0 → t.result.toNat = head + 10 * (n / 3) + [0, 4, 7].getD (n % 3) 0) ∧
     (s.arg0.toNat = 1 → t.result.toNat = head + 11 * (n / 2) + 6 * (n % 2)) ∧
     (s.arg0.toNat = 2 → t.result.toNat = head + 8 * n) ∧
     (s.arg0.toNat = 3 → t.result.toNat = head + 13 * keptPairs data) ∧
     t.bb.length = s.bb.length + t.result.toNat)

/-- FINAL: SEQUENCE without a block list, then CAPACITY beyond the capacity; else the terminator, the zeros to the byte
boundary and the pad bytes fill the buffer exactly to the capacity, RESULT is their number, and a second FINAL appends
nothing (42_bit_buffer.md R205, R206). -/
def Obligations.FinalPadsToTheCapacity : Prop :=
  encode .final = 0x36#32 ∧
  ∀ s : State,
    (let cap := 8 * dataSum s.blk
     let gap := cap - s.bb.length
     let t := min 4 gap
     let z := t + (8 - (s.bb.length + t) % 8) % 8
     (s.blk = [] → FailsWith .final s 5#4) ∧
     (s.blk ≠ [] → cap < s.bb.length → FailsWith .final s 2#4) ∧
     (s.blk ≠ [] → s.bb.length ≤ cap → ∃ tail,
       Completes .final s { s with bb := s.bb ++ tail, result := BitVec.ofNat 32 gap } ∧
       tail.length = gap ∧ (gap - z) % 8 = 0 ∧
       (∀ k, k < z → tail.getD k false = false) ∧
       (∀ k, z ≤ k → k < gap →
         tail.getD k false = (if (k - z) / 8 % 2 = 0 then 0xEC else 0x11 : Nat).testBit (7 - (k - z) % 8)) ∧
       ∀ u, exec .final s = .next u → Completes .final u { u with result := 0#32 }))

/-! ## The RS encoder -/

/-- BLKCLR empties the block list, BLKADD appends equal blocks within the bounds of 10_state.md R47, CAPBITS returns the
capacity; BLKADD's failures in order (43_reed_solomon.md R231, R232, R234). -/
def Obligations.BlockListCommands : Prop :=
  (encode .blkclr = 0x40#32 ∧ encode .blkadd = 0x41#32 ∧ encode .capbits = 0x43#32) ∧
  ∀ s : State,
    (let c := s.arg0.toNat
     let t := s.arg1.toNat
     let d := s.arg2.toNat
     let bad := c < 1 ∨ d < 1 ∨ t < d ∨ 255 < t
     let full := 128 < s.blk.length + c ∨ 4096 < dataSum s.blk + c * d ∨ 4096 < totalSum s.blk + c * t
     Completes .blkclr s { s with blk := [] } ∧
     Completes .capbits s { s with result := BitVec.ofNat 32 (8 * dataSum s.blk) } ∧
     (¬ bad → ¬ full →
       Completes .blkadd s { s with blk := s.blk ++ List.replicate c { total := t, data := d }
                                    result := BitVec.ofNat 32 (s.blk.length + c) }) ∧
     (bad → FailsWith .blkadd s 1#4) ∧ (¬ bad → full → FailsWith .blkadd s 4#4))

/-- BLKSEL replaces the block list by the layout of the version and level; every layout of the table is within the
bounds, so RESOURCE never occurs (43_reed_solomon.md R233, 10_state.md R52, R53). -/
def Obligations.BlkselSelectsALayoutWithinBounds : Prop :=
  encode .blksel = 0x42#32 ∧
  (∀ s : State, 1 ≤ s.arg0.toNat → s.arg0.toNat ≤ 40 → s.arg1.toNat ≤ 3 → ∃ groups bs,
    rsBlockTable[(s.arg0.toNat - 1) * 4 + s.arg1.toNat]? = some groups ∧
    bs = (groups.map fun g => List.replicate g.count (Block.mk g.total g.data)).flatten ∧
    Completes .blksel s { s with blk := bs, result := BitVec.ofNat 32 bs.length } ∧
    1 ≤ bs.length ∧ bs.length ≤ 81 ∧ dataSum bs ≤ 2956 ∧ totalSum bs ≤ 3706 ∧
    (∃ e, ∀ b ∈ bs, b.total = b.data + e ∧ 1 ≤ b.data ∧ b.total ≤ 255)) ∧
  ∀ s : State, s.arg0.toNat < 1 ∨ 40 < s.arg0.toNat ∨ 3 < s.arg1.toNat → FailsWith .blksel s 1#4

/-- RSBLK stores exactly `e` EC codewords, the remainder of the shifted data by the generator; DOMAIN if the block is
longer than 255 or not inside the bit buffer (43_reed_solomon.md R235). -/
def Obligations.RsblkStoresTheRemainder : Prop :=
  ∀ (s : State) (pd : PReg),
    (let d := s.arg1.toNat
     let e := s.arg2.toNat
     (encode (.rsblk pd)).toNat = 0x44 + 2 ^ 8 * regNum pd ∧
     (d + e ≤ 255 → 8 * (s.arg0.toNat + d) ≤ s.bb.length → ∃ ec,
       Completes (.rsblk pd) s { s with poly := s.poly.set pd ec } ∧
       IsEc ((List.range d).map fun k => byteView s.bb (s.arg0.toNat + k)) e ec) ∧
     (255 < d + e ∨ s.bb.length < 8 * (s.arg0.toNat + d) → FailsWith (.rsblk pd) s 1#4))

/-- RSRUN writes the interleaved data codewords of all blocks and then their interleaved EC codewords into CWBUF and
nothing else; SEQUENCE without a block list or with a bit buffer that is not exactly full (43_reed_solomon.md R230,
R236, R237). -/
def Obligations.RsrunWritesTheInterleavedStream : Prop :=
  encode .rsrun = 0x45#32 ∧
  ∀ s : State,
    (s.blk = [] ∨ s.bb.length ≠ 8 * dataSum s.blk → FailsWith .rsrun s 5#4) ∧
    (s.Inv → s.blk ≠ [] → s.bb.length = 8 * dataSum s.blk → ∃ cw es,
      Completes .rsrun s { s with cwbuf := cw, result := BitVec.ofNat 32 (totalSum s.blk) } ∧
      es.length = s.blk.length ∧
      (∀ b (h : b < s.blk.length),
        IsEc (blockData s.bb s.blk b) (s.blk[b].total - s.blk[b].data) (es.getD b [])) ∧
      (let stream := columns ((List.range s.blk.length).map (blockData s.bb s.blk)) ++ columns es
       stream.length = totalSum s.blk ∧
       (∀ a, a < totalSum s.blk → ({ s with cwbuf := cw } : State).cwbufByte a = stream.getD a 0#8) ∧
       ∀ a, totalSum s.blk ≤ a → ({ s with cwbuf := cw } : State).cwbufByte a = s.cwbufByte a))

/-- RSSYN stores the values of the codeword at `gexp(0) .. gexp(e-1)` and returns 1 exactly when all are 0; RESOURCE for
more than 512 (43_reed_solomon.md R238). -/
def Obligations.RssynStoresTheSyndromes : Prop :=
  ∀ (s : State) (pd pa : PReg),
    (let e := s.arg0.toNat
     let syn := (List.range e).map fun j => value (s.poly.get pa) (gexp (j : Int))
     (encode (.rssyn pd pa)).toNat = 0x46 + 2 ^ 8 * regNum pd + 2 ^ 10 * regNum pa ∧
     (e ≤ 512 →
       Completes (.rssyn pd pa) s { s with poly := s.poly.set pd syn
                                           result := if ∀ x ∈ syn, x = 0#8 then 1#32 else 0#32 }) ∧
     (512 < e → FailsWith (.rssyn pd pa) s 4#4))

/-- The code is systematic: the data codewords followed by the EC codewords RSBLK computed have only zero syndromes, so
RSSYN with the same count returns 1 (43_reed_solomon.md R239 items 1 and 2). -/
def Obligations.CodewordHasZeroSyndromes : Prop :=
  ∀ (s t u : State) (pd pd' pa : PReg),
    s.err = false → exec (.rsblk pd) s = .next t → t.err = false →
    u.poly.get pa = (List.range s.arg1.toNat).map (fun k => byteView s.bb (s.arg0.toNat + k)) ++ t.poly.get pd →
    u.arg0 = s.arg2 →
    Completes (.rssyn pd' pa) u { u with poly := u.poly.set pd' (List.replicate s.arg2.toNat 0#8), result := 1#32 }

/-- EC codewords are linear: those of the XOR of two equally long data sequences are the XOR of theirs
(43_reed_solomon.md R239 item 3). -/
def Obligations.EcCodewordsAreLinear : Prop :=
  ∀ (d1 d2 : List Byte) (e : Nat), d1.length = d2.length →
    ∃ e1 e2, ecOf d1 e = .ok e1 ∧ ecOf d2 e = .ok e2 ∧
      ecOf (List.zipWith (· ^^^ ·) d1 d2) e = .ok (List.zipWith (· ^^^ ·) e1 e2)

/-! ## The format unit -/

/-- FMTENC returns the word of the table of 44_format_info.md R264 for every ECL and mask, and fails with DOMAIN for an
ECL above 3 or a mask above 7 (R262, R264). -/
def Obligations.FmtencReturnsTheFormatWord : Prop :=
  encode .fmtenc = 0x00000050#32 ∧
  ∀ s : State,
    (s.arg0.toNat ≤ 3 → s.arg1.toNat ≤ 7 →
      Completes .fmtenc s { s with result := BitVec.ofNat 32 (formatWords.getD (8 * s.arg0.toNat + s.arg1.toNat) 0) }) ∧
    (3 < s.arg0.toNat ∨ 7 < s.arg1.toNat → FailsWith .fmtenc s 1#4)

/-- FMTCHK returns the remainder of the unmasked word by G15, its mask, level bits and ECL, and VALID exactly for the 32
words of R264; a word above 15 bits fails with DOMAIN (44_format_info.md R263). -/
def Obligations.FmtchkReturnsSyndromeAndFields : Prop :=
  encode .fmtchk = 0x00000051#32 ∧
  ∀ s : State,
    (s.arg0.toNat ≤ 0x7FFF → ∃ syn q,
      (let u := s.arg0.toNat ^^^ 0x5412
       Completes .fmtchk s { s with result := BitVec.ofNat 32 (syn + 2 ^ 10 * (u / 2 ^ 10 % 8) + 2 ^ 13 * (u / 2 ^ 13) +
         2 ^ 16 * (u / 2 ^ 13 ^^^ 1) + (if syn = 0 then 2 ^ 31 else 0)) } ∧
       syn < 2 ^ 10 ∧ q < 2 ^ 5 ∧ u = carryless 0x537 q ^^^ syn ∧
       (syn = 0 ↔ s.arg0.toNat ∈ formatWords))) ∧
    (0x7FFF < s.arg0.toNat → FailsWith .fmtchk s 1#4)

/-- FMTCHK of an FMTENC result gives VALID, the mask and the ECL that went in, at syndrome 0 (44_format_info.md R263). -/
def Obligations.FormatWordsDecodeBack : Prop :=
  ∀ s t u : State, s.arg0.toNat ≤ 3 → s.arg1.toNat ≤ 7 → exec .fmtenc s = .next t → u.arg0 = t.result →
    ∃ r : Word, Completes .fmtchk u { u with result := r } ∧
      r.getLsbD 31 = true ∧ r.extractLsb' 0 10 = 0#10 ∧
      (r.extractLsb' 10 3).toNat = s.arg1.toNat ∧ (r.extractLsb' 16 2).toNat = s.arg0.toNat

/-! ## The invariant -/

/-- The state after reset meets the invariant (70_reset_and_hazards.md R330). The values of the model's own fields are
its choice (log 3, 6). -/
def Obligations.ResetMeetsTheInvariant : Prop :=
  State.reset.Inv

/-- Every step keeps the invariant: the bounds of 10_state.md R43, R45, R47, ERRCODE in 0..5 and 0 exactly while
ERR = 0, no command in flight while ERR or DONE, and the canonical form of the buffers (log 3, 4). -/
def Obligations.EveryStepKeepsTheInvariant : Prop :=
  ∀ s t : State, s.Inv → step s = .next t → t.Inv

end
end

