-- ==== Sys2Proof/Laws/Bits.lean ====
section
/-! SUPPORT. Bit sequences: their lengths and their bits. -/

namespace Sys2Proof.Machine

/-- `bitsOf(v, w)` has `w` bits. -/
@[simp] theorem bitsOf_length (v w : Nat) : (bitsOf v w).length = w := by simp [bitsOf]

/-- Bit `k` of `bitsOf v w`, in append order, is bit `w-1-k` of `v`. -/
theorem bitsOf_getD (v : Nat) {w k : Nat} (h : k < w) : (bitsOf v w).getD k false = v.testBit (w - 1 - k) := by
  simp [bitsOf, List.getD, h]

theorem bbBytes_length (bb : List Bool) (off n : Nat) : (bbBytes bb off n).length = n := by simp [bbBytes]

theorem padBytes_length (n : Nat) : (padBytes n).length = 8 * n := by
  induction n with
  | zero => rfl
  | succ n ih =>
    simp only [padBytes] at ih ⊢
    rw [List.range_succ, List.flatMap_append, List.length_append, ih]
    simp; omega

/-- FINAL fills a buffer exactly to a capacity of whole bytes. -/
theorem finalBits_length {len cap : Nat} (h : len ≤ cap) (h8 : cap % 8 = 0) :
    (finalBits len cap).length = cap - len := by
  simp only [finalBits, List.length_append, List.length_replicate, padBytes_length]
  omega

theorem finalBits_full {cap : Nat} (h8 : cap % 8 = 0) : finalBits cap cap = [] := by
  have h0 : (8 - cap % 8) % 8 = 0 := by omega
  simp [finalBits, h0, padBytes]

/-- A code in one of the two ranges gives 13 bits, any other none (42_bit_buffer.md R203). -/
theorem kanjiBits_length (c : Nat) :
    (kanjiBits c).length = if (0x8140 ≤ c ∧ c ≤ 0x9FFC) ∨ (0xE040 ≤ c ∧ c ≤ 0xEBBF) then 13 else 0 := by
  unfold kanjiBits
  by_cases h1 : 0x8140 ≤ c ∧ c ≤ 0x9FFC
  · rw [if_pos h1, if_pos (.inl h1), bitsOf_length]
  · by_cases h2 : 0xE040 ≤ c ∧ c ≤ 0xEBBF
    · rw [if_neg h1, if_pos h2, if_pos (.inr h2), bitsOf_length]
    · rw [if_neg h1, if_neg h2, if_neg (not_or.2 ⟨h1, h2⟩)]; rfl

end Sys2Proof.Machine
end

