-- ==== Sys2Proof/Laws/Field.lean ====
section
/-! SUPPORT. The field functions: the ROMs are inverse to each other, and the product's laws. -/

namespace Sys2Proof.Machine

/-- No entry of EXP is 0. -/
theorem expRom_ne_zero {i : Nat} (h : i < 256) : expRom i ≠ 0#8 := by
  have : ∀ j : Fin 256, expRom j.val ≠ 0#8 := by decide +kernel
  exact this ⟨i, h⟩

/-- LOG is the inverse of EXP on 0..254 (10_state.md R51). -/
theorem logRom_expRom {i : Nat} (h : i < 255) : logRom (expRom i) = i := by
  have : ∀ j : Fin 255, logRom (expRom j.val) = j.val := by decide +kernel
  exact this ⟨i, h⟩

/-- LOG of a nonzero element lies in 0..254 (40_galois_field.md R142). -/
theorem logRom_lt {a : Byte} (h : a ≠ 0#8) : logRom a < 255 := by
  have : ∀ j : Fin 255, logRom (BitVec.ofNat 8 (j.val + 1)) < 255 := by decide +kernel
  have ha : a.toNat ≠ 0 := fun h0 => h (BitVec.eq_of_toNat_eq (by simpa using h0))
  have hl := a.isLt
  have := this ⟨a.toNat - 1, by omega⟩
  simpa [show a.toNat - 1 + 1 = a.toNat by omega] using this

/-- EXP undoes LOG on the nonzero elements (40_galois_field.md R142). -/
theorem expRom_logRom {a : Byte} (h : a ≠ 0#8) : expRom (logRom a) = a := by
  have : ∀ j : Fin 255, expRom (logRom (BitVec.ofNat 8 (j.val + 1))) = BitVec.ofNat 8 (j.val + 1) := by decide +kernel
  have ha : a.toNat ≠ 0 := fun h0 => h (BitVec.eq_of_toNat_eq (by simpa using h0))
  have hl := a.isLt
  have := this ⟨a.toNat - 1, by omega⟩
  simpa [show a.toNat - 1 + 1 = a.toNat by omega] using this

@[simp] theorem gmul_zero_left (b : Byte) : gmul 0#8 b = 0#8 := by simp [gmul]
@[simp] theorem gmul_zero_right (a : Byte) : gmul a 0#8 = 0#8 := by simp [gmul]

/-- The field product is commutative (40_galois_field.md R144). -/
theorem gmul_comm (a b : Byte) : gmul a b = gmul b a := by
  unfold gmul; simp only [or_comm, Nat.add_comm]

/-- The product of nonzero elements, by their logarithms. -/
theorem gmul_ne_zero {a b : Byte} (ha : a ≠ 0#8) (hb : b ≠ 0#8) :
    gmul a b = expRom ((logRom a + logRom b) % 255) := by simp [gmul, ha, hb]

/-- A product is 0 only if a factor is (40_galois_field.md R144). -/
theorem gmul_eq_zero {a b : Byte} : gmul a b = 0#8 ↔ a = 0#8 ∨ b = 0#8 := by
  constructor
  · intro h
    by_contra hc
    simp only [not_or] at hc
    rw [gmul_ne_zero hc.1 hc.2] at h
    exact expRom_ne_zero (by omega) h
  · rintro (rfl | rfl) <;> simp

/-- The logarithm of a product is the sum of the logarithms modulo 255. -/
theorem logRom_gmul {a b : Byte} (ha : a ≠ 0#8) (hb : b ≠ 0#8) :
    logRom (gmul a b) = (logRom a + logRom b) % 255 := by
  rw [gmul_ne_zero ha hb, logRom_expRom (by omega)]

/-- The field product is associative (40_galois_field.md R144). -/
theorem gmul_assoc (a b c : Byte) : gmul (gmul a b) c = gmul a (gmul b c) := by
  by_cases ha : a = 0#8
  · simp [ha]
  by_cases hb : b = 0#8
  · simp [hb]
  by_cases hc : c = 0#8
  · simp [hc]
  have h1 : gmul a b ≠ 0#8 := by simp [gmul_eq_zero, ha, hb]
  have h2 : gmul b c ≠ 0#8 := by simp [gmul_eq_zero, hc, hb]
  rw [gmul_ne_zero h1 hc, gmul_ne_zero ha h2, logRom_gmul ha hb, logRom_gmul hb hc]
  congr 1
  omega

/-- 1 is the identity (40_galois_field.md R144). -/
theorem gmul_one_left (b : Byte) : gmul 1#8 b = b := by
  by_cases hb : b = 0#8
  · simp [hb]
  have h1 : logRom 1#8 = 0 := by decide
  have := logRom_lt hb
  rw [gmul_ne_zero (by decide) hb, h1, Nat.zero_add, Nat.mod_eq_of_lt this, expRom_logRom hb]

/-- Multiplication by `x` modulo `x^8+x^4+x^3+x^2+1` (00_scope.md R7). -/
def xtime (a : Byte) : Byte := (a <<< 1) ^^^ (if a.getLsbD 7 then 0x1D#8 else 0#8)

/-- The next power is the last one times `x`. -/
theorem expRom_succ {i : Nat} (h : i < 255) : expRom ((i + 1) % 255) = xtime (expRom i) := by
  have : ∀ j : Fin 255, expRom ((j.val + 1) % 255) = xtime (expRom j.val) := by decide +kernel
  exact this ⟨i, h⟩

/-- Multiplication by `x` is linear. -/
theorem xtime_xor (a b : Byte) : xtime (a ^^^ b) = xtime a ^^^ xtime b := by
  unfold xtime
  rw [BitVec.getLsbD_xor]
  cases a.getLsbD 7 <;> cases b.getLsbD 7 <;> simp <;> ext i hi <;> simp <;> 
    (try cases a.getLsbD (i-1) <;> cases b.getLsbD (i-1) <;> cases (29#8)[i] <;> cases decide (i = 0) <;> simp)

/-- A product with the next power is the product with the last one, times `x`. -/
theorem gmul_exp_succ {i : Nat} (h : i < 255) (b : Byte) :
    gmul (expRom ((i + 1) % 255)) b = xtime (gmul (expRom i) b) := by
  by_cases hb : b = 0#8
  · subst hb; simp; decide
  have h1 : expRom ((i + 1) % 255) ≠ 0#8 := expRom_ne_zero (by omega)
  have h2 : expRom i ≠ 0#8 := expRom_ne_zero (by omega)
  rw [gmul_ne_zero h1 hb, gmul_ne_zero h2 hb, logRom_expRom (by omega), logRom_expRom h, ← expRom_succ (by omega)]
  congr 1
  omega

/-- The field product distributes over addition on the right (40_galois_field.md R144). -/
theorem gmul_xor_right (a b c : Byte) : gmul a (b ^^^ c) = gmul a b ^^^ gmul a c := by
  by_cases ha : a = 0#8
  · simp [ha]
  have key : ∀ i, i < 255 → gmul (expRom i) (b ^^^ c) = gmul (expRom i) b ^^^ gmul (expRom i) c := by
    intro i
    induction i with
    | zero =>
      intro _
      have : expRom 0 = 1#8 := by decide
      rw [this]; simp [gmul_one_left]
    | succ i ih =>
      intro h
      have hi : (i + 1) % 255 = i + 1 := Nat.mod_eq_of_lt h
      have := fun b => gmul_exp_succ (i := i) (by omega) b
      rw [hi] at this
      rw [this, this, this, ih (by omega), xtime_xor]
  have := key (logRom a) (logRom_lt ha)
  rwa [expRom_logRom ha] at this

/-- The field product distributes over addition on the left (40_galois_field.md R144). -/
theorem gmul_xor_left (a b c : Byte) : gmul (a ^^^ b) c = gmul a c ^^^ gmul b c := by
  rw [gmul_comm, gmul_xor_right, gmul_comm c a, gmul_comm c b]

end Sys2Proof.Machine
end

