-- ==== Sys2Proof/Laws/State.lean ====
section
/-! SUPPORT. One lemma per field and update of `State`: what each named update leaves in each field, true by definition. -/

namespace Sys2Proof.Machine

variable (s : State)

/-! ## `withPoly` -/

@[simp] theorem State.withPoly_ie (k : PReg) (c : List Byte) : (s.withPoly k c).ie = s.ie := rfl
@[simp] theorem State.withPoly_busy (k : PReg) (c : List Byte) : (s.withPoly k c).busy = s.busy := rfl
@[simp] theorem State.withPoly_done (k : PReg) (c : List Byte) : (s.withPoly k c).done = s.done := rfl
@[simp] theorem State.withPoly_err (k : PReg) (c : List Byte) : (s.withPoly k c).err = s.err := rfl
@[simp] theorem State.withPoly_ovr (k : PReg) (c : List Byte) : (s.withPoly k c).ovr = s.ovr := rfl
@[simp] theorem State.withPoly_errcode (k : PReg) (c : List Byte) : (s.withPoly k c).errcode = s.errcode := rfl
@[simp] theorem State.withPoly_arg0 (k : PReg) (c : List Byte) : (s.withPoly k c).arg0 = s.arg0 := rfl
@[simp] theorem State.withPoly_arg1 (k : PReg) (c : List Byte) : (s.withPoly k c).arg1 = s.arg1 := rfl
@[simp] theorem State.withPoly_arg2 (k : PReg) (c : List Byte) : (s.withPoly k c).arg2 = s.arg2 := rfl
@[simp] theorem State.withPoly_arg3 (k : PReg) (c : List Byte) : (s.withPoly k c).arg3 = s.arg3 := rfl
@[simp] theorem State.withPoly_result (k : PReg) (c : List Byte) : (s.withPoly k c).result = s.result := rfl
@[simp] theorem State.withPoly_pending (k : PReg) (c : List Byte) : (s.withPoly k c).pending = s.pending := rfl
@[simp] theorem State.withPoly_poly (k : PReg) (c : List Byte) : (s.withPoly k c).poly = s.poly.set k c := rfl
@[simp] theorem State.withPoly_bb (k : PReg) (c : List Byte) : (s.withPoly k c).bb = s.bb := rfl
@[simp] theorem State.withPoly_blk (k : PReg) (c : List Byte) : (s.withPoly k c).blk = s.blk := rfl
@[simp] theorem State.withPoly_inbuf (k : PReg) (c : List Byte) : (s.withPoly k c).inbuf = s.inbuf := rfl
@[simp] theorem State.withPoly_cwbuf (k : PReg) (c : List Byte) : (s.withPoly k c).cwbuf = s.cwbuf := rfl
@[simp] theorem State.withPoly_lag (k : PReg) (c : List Byte) : (s.withPoly k c).lag = s.lag := rfl
@[simp] theorem State.withPoly_free (k : PReg) (c : List Byte) : (s.withPoly k c).free = s.free := rfl
@[simp] theorem State.withPoly_inputs (k : PReg) (c : List Byte) : (s.withPoly k c).inputs = s.inputs := rfl
@[simp] theorem State.withPoly_rdata (k : PReg) (c : List Byte) : (s.withPoly k c).rdata = s.rdata := rfl

/-! ## `withResult` -/

@[simp] theorem State.withResult_ie (w : Word) : (s.withResult w).ie = s.ie := rfl
@[simp] theorem State.withResult_busy (w : Word) : (s.withResult w).busy = s.busy := rfl
@[simp] theorem State.withResult_done (w : Word) : (s.withResult w).done = s.done := rfl
@[simp] theorem State.withResult_err (w : Word) : (s.withResult w).err = s.err := rfl
@[simp] theorem State.withResult_ovr (w : Word) : (s.withResult w).ovr = s.ovr := rfl
@[simp] theorem State.withResult_errcode (w : Word) : (s.withResult w).errcode = s.errcode := rfl
@[simp] theorem State.withResult_arg0 (w : Word) : (s.withResult w).arg0 = s.arg0 := rfl
@[simp] theorem State.withResult_arg1 (w : Word) : (s.withResult w).arg1 = s.arg1 := rfl
@[simp] theorem State.withResult_arg2 (w : Word) : (s.withResult w).arg2 = s.arg2 := rfl
@[simp] theorem State.withResult_arg3 (w : Word) : (s.withResult w).arg3 = s.arg3 := rfl
@[simp] theorem State.withResult_result (w : Word) : (s.withResult w).result = w := rfl
@[simp] theorem State.withResult_pending (w : Word) : (s.withResult w).pending = s.pending := rfl
@[simp] theorem State.withResult_poly (w : Word) : (s.withResult w).poly = s.poly := rfl
@[simp] theorem State.withResult_bb (w : Word) : (s.withResult w).bb = s.bb := rfl
@[simp] theorem State.withResult_blk (w : Word) : (s.withResult w).blk = s.blk := rfl
@[simp] theorem State.withResult_inbuf (w : Word) : (s.withResult w).inbuf = s.inbuf := rfl
@[simp] theorem State.withResult_cwbuf (w : Word) : (s.withResult w).cwbuf = s.cwbuf := rfl
@[simp] theorem State.withResult_lag (w : Word) : (s.withResult w).lag = s.lag := rfl
@[simp] theorem State.withResult_free (w : Word) : (s.withResult w).free = s.free := rfl
@[simp] theorem State.withResult_inputs (w : Word) : (s.withResult w).inputs = s.inputs := rfl
@[simp] theorem State.withResult_rdata (w : Word) : (s.withResult w).rdata = s.rdata := rfl

/-! ## `withCount` -/

@[simp] theorem State.withCount_ie (n : Nat) : (s.withCount n).ie = s.ie := rfl
@[simp] theorem State.withCount_busy (n : Nat) : (s.withCount n).busy = s.busy := rfl
@[simp] theorem State.withCount_done (n : Nat) : (s.withCount n).done = s.done := rfl
@[simp] theorem State.withCount_err (n : Nat) : (s.withCount n).err = s.err := rfl
@[simp] theorem State.withCount_ovr (n : Nat) : (s.withCount n).ovr = s.ovr := rfl
@[simp] theorem State.withCount_errcode (n : Nat) : (s.withCount n).errcode = s.errcode := rfl
@[simp] theorem State.withCount_arg0 (n : Nat) : (s.withCount n).arg0 = s.arg0 := rfl
@[simp] theorem State.withCount_arg1 (n : Nat) : (s.withCount n).arg1 = s.arg1 := rfl
@[simp] theorem State.withCount_arg2 (n : Nat) : (s.withCount n).arg2 = s.arg2 := rfl
@[simp] theorem State.withCount_arg3 (n : Nat) : (s.withCount n).arg3 = s.arg3 := rfl
@[simp] theorem State.withCount_result (n : Nat) : (s.withCount n).result = BitVec.ofNat 32 n := rfl
@[simp] theorem State.withCount_pending (n : Nat) : (s.withCount n).pending = s.pending := rfl
@[simp] theorem State.withCount_poly (n : Nat) : (s.withCount n).poly = s.poly := rfl
@[simp] theorem State.withCount_bb (n : Nat) : (s.withCount n).bb = s.bb := rfl
@[simp] theorem State.withCount_blk (n : Nat) : (s.withCount n).blk = s.blk := rfl
@[simp] theorem State.withCount_inbuf (n : Nat) : (s.withCount n).inbuf = s.inbuf := rfl
@[simp] theorem State.withCount_cwbuf (n : Nat) : (s.withCount n).cwbuf = s.cwbuf := rfl
@[simp] theorem State.withCount_lag (n : Nat) : (s.withCount n).lag = s.lag := rfl
@[simp] theorem State.withCount_free (n : Nat) : (s.withCount n).free = s.free := rfl
@[simp] theorem State.withCount_inputs (n : Nat) : (s.withCount n).inputs = s.inputs := rfl
@[simp] theorem State.withCount_rdata (n : Nat) : (s.withCount n).rdata = s.rdata := rfl

/-! ## `appendBits` -/

@[simp] theorem State.appendBits_ie (b : List Bool) : (s.appendBits b).ie = s.ie := rfl
@[simp] theorem State.appendBits_busy (b : List Bool) : (s.appendBits b).busy = s.busy := rfl
@[simp] theorem State.appendBits_done (b : List Bool) : (s.appendBits b).done = s.done := rfl
@[simp] theorem State.appendBits_err (b : List Bool) : (s.appendBits b).err = s.err := rfl
@[simp] theorem State.appendBits_ovr (b : List Bool) : (s.appendBits b).ovr = s.ovr := rfl
@[simp] theorem State.appendBits_errcode (b : List Bool) : (s.appendBits b).errcode = s.errcode := rfl
@[simp] theorem State.appendBits_arg0 (b : List Bool) : (s.appendBits b).arg0 = s.arg0 := rfl
@[simp] theorem State.appendBits_arg1 (b : List Bool) : (s.appendBits b).arg1 = s.arg1 := rfl
@[simp] theorem State.appendBits_arg2 (b : List Bool) : (s.appendBits b).arg2 = s.arg2 := rfl
@[simp] theorem State.appendBits_arg3 (b : List Bool) : (s.appendBits b).arg3 = s.arg3 := rfl
@[simp] theorem State.appendBits_result (b : List Bool) : (s.appendBits b).result = s.result := rfl
@[simp] theorem State.appendBits_pending (b : List Bool) : (s.appendBits b).pending = s.pending := rfl
@[simp] theorem State.appendBits_poly (b : List Bool) : (s.appendBits b).poly = s.poly := rfl
@[simp] theorem State.appendBits_bb (b : List Bool) : (s.appendBits b).bb = s.bb ++ b := rfl
@[simp] theorem State.appendBits_blk (b : List Bool) : (s.appendBits b).blk = s.blk := rfl
@[simp] theorem State.appendBits_inbuf (b : List Bool) : (s.appendBits b).inbuf = s.inbuf := rfl
@[simp] theorem State.appendBits_cwbuf (b : List Bool) : (s.appendBits b).cwbuf = s.cwbuf := rfl
@[simp] theorem State.appendBits_lag (b : List Bool) : (s.appendBits b).lag = s.lag := rfl
@[simp] theorem State.appendBits_free (b : List Bool) : (s.appendBits b).free = s.free := rfl
@[simp] theorem State.appendBits_inputs (b : List Bool) : (s.appendBits b).inputs = s.inputs := rfl
@[simp] theorem State.appendBits_rdata (b : List Bool) : (s.appendBits b).rdata = s.rdata := rfl

/-! ## `withBits` -/

@[simp] theorem State.withBits_ie (b : List Bool) : (s.withBits b).ie = s.ie := rfl
@[simp] theorem State.withBits_busy (b : List Bool) : (s.withBits b).busy = s.busy := rfl
@[simp] theorem State.withBits_done (b : List Bool) : (s.withBits b).done = s.done := rfl
@[simp] theorem State.withBits_err (b : List Bool) : (s.withBits b).err = s.err := rfl
@[simp] theorem State.withBits_ovr (b : List Bool) : (s.withBits b).ovr = s.ovr := rfl
@[simp] theorem State.withBits_errcode (b : List Bool) : (s.withBits b).errcode = s.errcode := rfl
@[simp] theorem State.withBits_arg0 (b : List Bool) : (s.withBits b).arg0 = s.arg0 := rfl
@[simp] theorem State.withBits_arg1 (b : List Bool) : (s.withBits b).arg1 = s.arg1 := rfl
@[simp] theorem State.withBits_arg2 (b : List Bool) : (s.withBits b).arg2 = s.arg2 := rfl
@[simp] theorem State.withBits_arg3 (b : List Bool) : (s.withBits b).arg3 = s.arg3 := rfl
@[simp] theorem State.withBits_result (b : List Bool) : (s.withBits b).result = s.result := rfl
@[simp] theorem State.withBits_pending (b : List Bool) : (s.withBits b).pending = s.pending := rfl
@[simp] theorem State.withBits_poly (b : List Bool) : (s.withBits b).poly = s.poly := rfl
@[simp] theorem State.withBits_bb (b : List Bool) : (s.withBits b).bb = b := rfl
@[simp] theorem State.withBits_blk (b : List Bool) : (s.withBits b).blk = s.blk := rfl
@[simp] theorem State.withBits_inbuf (b : List Bool) : (s.withBits b).inbuf = s.inbuf := rfl
@[simp] theorem State.withBits_cwbuf (b : List Bool) : (s.withBits b).cwbuf = s.cwbuf := rfl
@[simp] theorem State.withBits_lag (b : List Bool) : (s.withBits b).lag = s.lag := rfl
@[simp] theorem State.withBits_free (b : List Bool) : (s.withBits b).free = s.free := rfl
@[simp] theorem State.withBits_inputs (b : List Bool) : (s.withBits b).inputs = s.inputs := rfl
@[simp] theorem State.withBits_rdata (b : List Bool) : (s.withBits b).rdata = s.rdata := rfl

/-! ## `withBlocks` -/

@[simp] theorem State.withBlocks_ie (b : List Block) : (s.withBlocks b).ie = s.ie := rfl
@[simp] theorem State.withBlocks_busy (b : List Block) : (s.withBlocks b).busy = s.busy := rfl
@[simp] theorem State.withBlocks_done (b : List Block) : (s.withBlocks b).done = s.done := rfl
@[simp] theorem State.withBlocks_err (b : List Block) : (s.withBlocks b).err = s.err := rfl
@[simp] theorem State.withBlocks_ovr (b : List Block) : (s.withBlocks b).ovr = s.ovr := rfl
@[simp] theorem State.withBlocks_errcode (b : List Block) : (s.withBlocks b).errcode = s.errcode := rfl
@[simp] theorem State.withBlocks_arg0 (b : List Block) : (s.withBlocks b).arg0 = s.arg0 := rfl
@[simp] theorem State.withBlocks_arg1 (b : List Block) : (s.withBlocks b).arg1 = s.arg1 := rfl
@[simp] theorem State.withBlocks_arg2 (b : List Block) : (s.withBlocks b).arg2 = s.arg2 := rfl
@[simp] theorem State.withBlocks_arg3 (b : List Block) : (s.withBlocks b).arg3 = s.arg3 := rfl
@[simp] theorem State.withBlocks_result (b : List Block) : (s.withBlocks b).result = s.result := rfl
@[simp] theorem State.withBlocks_pending (b : List Block) : (s.withBlocks b).pending = s.pending := rfl
@[simp] theorem State.withBlocks_poly (b : List Block) : (s.withBlocks b).poly = s.poly := rfl
@[simp] theorem State.withBlocks_bb (b : List Block) : (s.withBlocks b).bb = s.bb := rfl
@[simp] theorem State.withBlocks_blk (b : List Block) : (s.withBlocks b).blk = b := rfl
@[simp] theorem State.withBlocks_inbuf (b : List Block) : (s.withBlocks b).inbuf = s.inbuf := rfl
@[simp] theorem State.withBlocks_cwbuf (b : List Block) : (s.withBlocks b).cwbuf = s.cwbuf := rfl
@[simp] theorem State.withBlocks_lag (b : List Block) : (s.withBlocks b).lag = s.lag := rfl
@[simp] theorem State.withBlocks_free (b : List Block) : (s.withBlocks b).free = s.free := rfl
@[simp] theorem State.withBlocks_inputs (b : List Block) : (s.withBlocks b).inputs = s.inputs := rfl
@[simp] theorem State.withBlocks_rdata (b : List Block) : (s.withBlocks b).rdata = s.rdata := rfl

/-! ## `withCodewords` -/

@[simp] theorem State.withCodewords_ie (b : List Byte) : (s.withCodewords b).ie = s.ie := rfl
@[simp] theorem State.withCodewords_busy (b : List Byte) : (s.withCodewords b).busy = s.busy := rfl
@[simp] theorem State.withCodewords_done (b : List Byte) : (s.withCodewords b).done = s.done := rfl
@[simp] theorem State.withCodewords_err (b : List Byte) : (s.withCodewords b).err = s.err := rfl
@[simp] theorem State.withCodewords_ovr (b : List Byte) : (s.withCodewords b).ovr = s.ovr := rfl
@[simp] theorem State.withCodewords_errcode (b : List Byte) : (s.withCodewords b).errcode = s.errcode := rfl
@[simp] theorem State.withCodewords_arg0 (b : List Byte) : (s.withCodewords b).arg0 = s.arg0 := rfl
@[simp] theorem State.withCodewords_arg1 (b : List Byte) : (s.withCodewords b).arg1 = s.arg1 := rfl
@[simp] theorem State.withCodewords_arg2 (b : List Byte) : (s.withCodewords b).arg2 = s.arg2 := rfl
@[simp] theorem State.withCodewords_arg3 (b : List Byte) : (s.withCodewords b).arg3 = s.arg3 := rfl
@[simp] theorem State.withCodewords_result (b : List Byte) : (s.withCodewords b).result = s.result := rfl
@[simp] theorem State.withCodewords_pending (b : List Byte) : (s.withCodewords b).pending = s.pending := rfl
@[simp] theorem State.withCodewords_poly (b : List Byte) : (s.withCodewords b).poly = s.poly := rfl
@[simp] theorem State.withCodewords_bb (b : List Byte) : (s.withCodewords b).bb = s.bb := rfl
@[simp] theorem State.withCodewords_blk (b : List Byte) : (s.withCodewords b).blk = s.blk := rfl
@[simp] theorem State.withCodewords_inbuf (b : List Byte) : (s.withCodewords b).inbuf = s.inbuf := rfl
@[simp] theorem State.withCodewords_cwbuf (b : List Byte) : (s.withCodewords b).cwbuf = s.cwbuf.writeBytes 0 (b.take Config.cwbufBytes) := rfl
@[simp] theorem State.withCodewords_lag (b : List Byte) : (s.withCodewords b).lag = s.lag := rfl
@[simp] theorem State.withCodewords_free (b : List Byte) : (s.withCodewords b).free = s.free := rfl
@[simp] theorem State.withCodewords_inputs (b : List Byte) : (s.withCodewords b).inputs = s.inputs := rfl
@[simp] theorem State.withCodewords_rdata (b : List Byte) : (s.withCodewords b).rdata = s.rdata := rfl

/-! ## `withInbufWord` -/

@[simp] theorem State.withInbufWord_ie (b : Nat) (v : Word) : (s.withInbufWord b v).ie = s.ie := rfl
@[simp] theorem State.withInbufWord_busy (b : Nat) (v : Word) : (s.withInbufWord b v).busy = s.busy := rfl
@[simp] theorem State.withInbufWord_done (b : Nat) (v : Word) : (s.withInbufWord b v).done = s.done := rfl
@[simp] theorem State.withInbufWord_err (b : Nat) (v : Word) : (s.withInbufWord b v).err = s.err := rfl
@[simp] theorem State.withInbufWord_ovr (b : Nat) (v : Word) : (s.withInbufWord b v).ovr = s.ovr := rfl
@[simp] theorem State.withInbufWord_errcode (b : Nat) (v : Word) : (s.withInbufWord b v).errcode = s.errcode := rfl
@[simp] theorem State.withInbufWord_arg0 (b : Nat) (v : Word) : (s.withInbufWord b v).arg0 = s.arg0 := rfl
@[simp] theorem State.withInbufWord_arg1 (b : Nat) (v : Word) : (s.withInbufWord b v).arg1 = s.arg1 := rfl
@[simp] theorem State.withInbufWord_arg2 (b : Nat) (v : Word) : (s.withInbufWord b v).arg2 = s.arg2 := rfl
@[simp] theorem State.withInbufWord_arg3 (b : Nat) (v : Word) : (s.withInbufWord b v).arg3 = s.arg3 := rfl
@[simp] theorem State.withInbufWord_result (b : Nat) (v : Word) : (s.withInbufWord b v).result = s.result := rfl
@[simp] theorem State.withInbufWord_pending (b : Nat) (v : Word) : (s.withInbufWord b v).pending = s.pending := rfl
@[simp] theorem State.withInbufWord_poly (b : Nat) (v : Word) : (s.withInbufWord b v).poly = s.poly := rfl
@[simp] theorem State.withInbufWord_bb (b : Nat) (v : Word) : (s.withInbufWord b v).bb = s.bb := rfl
@[simp] theorem State.withInbufWord_blk (b : Nat) (v : Word) : (s.withInbufWord b v).blk = s.blk := rfl
@[simp] theorem State.withInbufWord_inbuf (b : Nat) (v : Word) : (s.withInbufWord b v).inbuf = s.inbuf.writeBytes b (bytesOfWord v) := rfl
@[simp] theorem State.withInbufWord_cwbuf (b : Nat) (v : Word) : (s.withInbufWord b v).cwbuf = s.cwbuf := rfl
@[simp] theorem State.withInbufWord_lag (b : Nat) (v : Word) : (s.withInbufWord b v).lag = s.lag := rfl
@[simp] theorem State.withInbufWord_free (b : Nat) (v : Word) : (s.withInbufWord b v).free = s.free := rfl
@[simp] theorem State.withInbufWord_inputs (b : Nat) (v : Word) : (s.withInbufWord b v).inputs = s.inputs := rfl
@[simp] theorem State.withInbufWord_rdata (b : Nat) (v : Word) : (s.withInbufWord b v).rdata = s.rdata := rfl

/-! ## `complete` -/

@[simp] theorem State.complete_ie : (s.complete).ie = s.ie := rfl
@[simp] theorem State.complete_busy : (s.complete).busy = false := rfl
@[simp] theorem State.complete_done : (s.complete).done = true := rfl
@[simp] theorem State.complete_err : (s.complete).err = s.err := rfl
@[simp] theorem State.complete_ovr : (s.complete).ovr = s.ovr := rfl
@[simp] theorem State.complete_errcode : (s.complete).errcode = s.errcode := rfl
@[simp] theorem State.complete_arg0 : (s.complete).arg0 = s.arg0 := rfl
@[simp] theorem State.complete_arg1 : (s.complete).arg1 = s.arg1 := rfl
@[simp] theorem State.complete_arg2 : (s.complete).arg2 = s.arg2 := rfl
@[simp] theorem State.complete_arg3 : (s.complete).arg3 = s.arg3 := rfl
@[simp] theorem State.complete_result : (s.complete).result = s.result := rfl
@[simp] theorem State.complete_pending : (s.complete).pending = s.pending := rfl
@[simp] theorem State.complete_poly : (s.complete).poly = s.poly := rfl
@[simp] theorem State.complete_bb : (s.complete).bb = s.bb := rfl
@[simp] theorem State.complete_blk : (s.complete).blk = s.blk := rfl
@[simp] theorem State.complete_inbuf : (s.complete).inbuf = s.inbuf := rfl
@[simp] theorem State.complete_cwbuf : (s.complete).cwbuf = s.cwbuf := rfl
@[simp] theorem State.complete_lag : (s.complete).lag = s.lag := rfl
@[simp] theorem State.complete_free : (s.complete).free = s.free := rfl
@[simp] theorem State.complete_inputs : (s.complete).inputs = s.inputs := rfl
@[simp] theorem State.complete_rdata : (s.complete).rdata = s.rdata := rfl

/-! ## `fail` -/

@[simp] theorem State.fail_ie (k : ErrKind) : (s.fail k).ie = s.ie := rfl
@[simp] theorem State.fail_busy (k : ErrKind) : (s.fail k).busy = false := rfl
@[simp] theorem State.fail_done (k : ErrKind) : (s.fail k).done = true := rfl
@[simp] theorem State.fail_err (k : ErrKind) : (s.fail k).err = true := rfl
@[simp] theorem State.fail_ovr (k : ErrKind) : (s.fail k).ovr = s.ovr := rfl
@[simp] theorem State.fail_errcode (k : ErrKind) : (s.fail k).errcode = k.code := rfl
@[simp] theorem State.fail_arg0 (k : ErrKind) : (s.fail k).arg0 = s.arg0 := rfl
@[simp] theorem State.fail_arg1 (k : ErrKind) : (s.fail k).arg1 = s.arg1 := rfl
@[simp] theorem State.fail_arg2 (k : ErrKind) : (s.fail k).arg2 = s.arg2 := rfl
@[simp] theorem State.fail_arg3 (k : ErrKind) : (s.fail k).arg3 = s.arg3 := rfl
@[simp] theorem State.fail_result (k : ErrKind) : (s.fail k).result = s.result := rfl
@[simp] theorem State.fail_pending (k : ErrKind) : (s.fail k).pending = s.pending := rfl
@[simp] theorem State.fail_poly (k : ErrKind) : (s.fail k).poly = s.poly := rfl
@[simp] theorem State.fail_bb (k : ErrKind) : (s.fail k).bb = s.bb := rfl
@[simp] theorem State.fail_blk (k : ErrKind) : (s.fail k).blk = s.blk := rfl
@[simp] theorem State.fail_inbuf (k : ErrKind) : (s.fail k).inbuf = s.inbuf := rfl
@[simp] theorem State.fail_cwbuf (k : ErrKind) : (s.fail k).cwbuf = s.cwbuf := rfl
@[simp] theorem State.fail_lag (k : ErrKind) : (s.fail k).lag = s.lag := rfl
@[simp] theorem State.fail_free (k : ErrKind) : (s.fail k).free = s.free := rfl
@[simp] theorem State.fail_inputs (k : ErrKind) : (s.fail k).inputs = s.inputs := rfl
@[simp] theorem State.fail_rdata (k : ErrKind) : (s.fail k).rdata = s.rdata := rfl

/-! ## `clearErr` -/

@[simp] theorem State.clearErr_ie : (s.clearErr).ie = s.ie := rfl
@[simp] theorem State.clearErr_busy : (s.clearErr).busy = s.busy := rfl
@[simp] theorem State.clearErr_done : (s.clearErr).done = s.done := rfl
@[simp] theorem State.clearErr_err : (s.clearErr).err = false := rfl
@[simp] theorem State.clearErr_ovr : (s.clearErr).ovr = false := rfl
@[simp] theorem State.clearErr_errcode : (s.clearErr).errcode = 0#4 := rfl
@[simp] theorem State.clearErr_arg0 : (s.clearErr).arg0 = s.arg0 := rfl
@[simp] theorem State.clearErr_arg1 : (s.clearErr).arg1 = s.arg1 := rfl
@[simp] theorem State.clearErr_arg2 : (s.clearErr).arg2 = s.arg2 := rfl
@[simp] theorem State.clearErr_arg3 : (s.clearErr).arg3 = s.arg3 := rfl
@[simp] theorem State.clearErr_result : (s.clearErr).result = s.result := rfl
@[simp] theorem State.clearErr_pending : (s.clearErr).pending = s.pending := rfl
@[simp] theorem State.clearErr_poly : (s.clearErr).poly = s.poly := rfl
@[simp] theorem State.clearErr_bb : (s.clearErr).bb = s.bb := rfl
@[simp] theorem State.clearErr_blk : (s.clearErr).blk = s.blk := rfl
@[simp] theorem State.clearErr_inbuf : (s.clearErr).inbuf = s.inbuf := rfl
@[simp] theorem State.clearErr_cwbuf : (s.clearErr).cwbuf = s.cwbuf := rfl
@[simp] theorem State.clearErr_lag : (s.clearErr).lag = s.lag := rfl
@[simp] theorem State.clearErr_free : (s.clearErr).free = s.free := rfl
@[simp] theorem State.clearErr_inputs : (s.clearErr).inputs = s.inputs := rfl
@[simp] theorem State.clearErr_rdata : (s.clearErr).rdata = s.rdata := rfl

/-! ## `accept` -/

@[simp] theorem State.accept_ie (w : Word) : (s.accept w).ie = s.ie := rfl
@[simp] theorem State.accept_busy (w : Word) : (s.accept w).busy = true := rfl
@[simp] theorem State.accept_done (w : Word) : (s.accept w).done = false := rfl
@[simp] theorem State.accept_err (w : Word) : (s.accept w).err = s.err := rfl
@[simp] theorem State.accept_ovr (w : Word) : (s.accept w).ovr = s.ovr := rfl
@[simp] theorem State.accept_errcode (w : Word) : (s.accept w).errcode = s.errcode := rfl
@[simp] theorem State.accept_arg0 (w : Word) : (s.accept w).arg0 = s.arg0 := rfl
@[simp] theorem State.accept_arg1 (w : Word) : (s.accept w).arg1 = s.arg1 := rfl
@[simp] theorem State.accept_arg2 (w : Word) : (s.accept w).arg2 = s.arg2 := rfl
@[simp] theorem State.accept_arg3 (w : Word) : (s.accept w).arg3 = s.arg3 := rfl
@[simp] theorem State.accept_result (w : Word) : (s.accept w).result = s.result := rfl
@[simp] theorem State.accept_pending (w : Word) : (s.accept w).pending = w := rfl
@[simp] theorem State.accept_poly (w : Word) : (s.accept w).poly = s.poly := rfl
@[simp] theorem State.accept_bb (w : Word) : (s.accept w).bb = s.bb := rfl
@[simp] theorem State.accept_blk (w : Word) : (s.accept w).blk = s.blk := rfl
@[simp] theorem State.accept_inbuf (w : Word) : (s.accept w).inbuf = s.inbuf := rfl
@[simp] theorem State.accept_cwbuf (w : Word) : (s.accept w).cwbuf = s.cwbuf := rfl
@[simp] theorem State.accept_lag (w : Word) : (s.accept w).lag = Config.tStep w s.free := rfl
@[simp] theorem State.accept_free (w : Word) : (s.accept w).free = s.free + 1 := rfl
@[simp] theorem State.accept_inputs (w : Word) : (s.accept w).inputs = s.inputs := rfl
@[simp] theorem State.accept_rdata (w : Word) : (s.accept w).rdata = s.rdata := rfl

/-! ## `overrun` -/

@[simp] theorem State.overrun_ie : (s.overrun).ie = s.ie := rfl
@[simp] theorem State.overrun_busy : (s.overrun).busy = s.busy := rfl
@[simp] theorem State.overrun_done : (s.overrun).done = s.done := rfl
@[simp] theorem State.overrun_err : (s.overrun).err = s.err := rfl
@[simp] theorem State.overrun_ovr : (s.overrun).ovr = true := rfl
@[simp] theorem State.overrun_errcode : (s.overrun).errcode = s.errcode := rfl
@[simp] theorem State.overrun_arg0 : (s.overrun).arg0 = s.arg0 := rfl
@[simp] theorem State.overrun_arg1 : (s.overrun).arg1 = s.arg1 := rfl
@[simp] theorem State.overrun_arg2 : (s.overrun).arg2 = s.arg2 := rfl
@[simp] theorem State.overrun_arg3 : (s.overrun).arg3 = s.arg3 := rfl
@[simp] theorem State.overrun_result : (s.overrun).result = s.result := rfl
@[simp] theorem State.overrun_pending : (s.overrun).pending = s.pending := rfl
@[simp] theorem State.overrun_poly : (s.overrun).poly = s.poly := rfl
@[simp] theorem State.overrun_bb : (s.overrun).bb = s.bb := rfl
@[simp] theorem State.overrun_blk : (s.overrun).blk = s.blk := rfl
@[simp] theorem State.overrun_inbuf : (s.overrun).inbuf = s.inbuf := rfl
@[simp] theorem State.overrun_cwbuf : (s.overrun).cwbuf = s.cwbuf := rfl
@[simp] theorem State.overrun_lag : (s.overrun).lag = s.lag := rfl
@[simp] theorem State.overrun_free : (s.overrun).free = s.free := rfl
@[simp] theorem State.overrun_inputs : (s.overrun).inputs = s.inputs := rfl
@[simp] theorem State.overrun_rdata : (s.overrun).rdata = s.rdata := rfl

/-! ## `withPending` -/

@[simp] theorem State.withPending_ie (w : Word) : (s.withPending w).ie = s.ie := rfl
@[simp] theorem State.withPending_busy (w : Word) : (s.withPending w).busy = true := rfl
@[simp] theorem State.withPending_done (w : Word) : (s.withPending w).done = false := rfl
@[simp] theorem State.withPending_err (w : Word) : (s.withPending w).err = s.err := rfl
@[simp] theorem State.withPending_ovr (w : Word) : (s.withPending w).ovr = s.ovr := rfl
@[simp] theorem State.withPending_errcode (w : Word) : (s.withPending w).errcode = s.errcode := rfl
@[simp] theorem State.withPending_arg0 (w : Word) : (s.withPending w).arg0 = s.arg0 := rfl
@[simp] theorem State.withPending_arg1 (w : Word) : (s.withPending w).arg1 = s.arg1 := rfl
@[simp] theorem State.withPending_arg2 (w : Word) : (s.withPending w).arg2 = s.arg2 := rfl
@[simp] theorem State.withPending_arg3 (w : Word) : (s.withPending w).arg3 = s.arg3 := rfl
@[simp] theorem State.withPending_result (w : Word) : (s.withPending w).result = s.result := rfl
@[simp] theorem State.withPending_pending (w : Word) : (s.withPending w).pending = w := rfl
@[simp] theorem State.withPending_poly (w : Word) : (s.withPending w).poly = s.poly := rfl
@[simp] theorem State.withPending_bb (w : Word) : (s.withPending w).bb = s.bb := rfl
@[simp] theorem State.withPending_blk (w : Word) : (s.withPending w).blk = s.blk := rfl
@[simp] theorem State.withPending_inbuf (w : Word) : (s.withPending w).inbuf = s.inbuf := rfl
@[simp] theorem State.withPending_cwbuf (w : Word) : (s.withPending w).cwbuf = s.cwbuf := rfl
@[simp] theorem State.withPending_lag (w : Word) : (s.withPending w).lag = 0 := rfl
@[simp] theorem State.withPending_free (w : Word) : (s.withPending w).free = s.free := rfl
@[simp] theorem State.withPending_inputs (w : Word) : (s.withPending w).inputs = s.inputs := rfl
@[simp] theorem State.withPending_rdata (w : Word) : (s.withPending w).rdata = s.rdata := rfl

/-! ## `cleared`: the fields a reset keeps and the ones it sets -/

@[simp] theorem State.cleared_ie : s.cleared.ie = false := rfl
@[simp] theorem State.cleared_busy : s.cleared.busy = false := rfl
@[simp] theorem State.cleared_done : s.cleared.done = false := rfl
@[simp] theorem State.cleared_err : s.cleared.err = false := rfl
@[simp] theorem State.cleared_ovr : s.cleared.ovr = false := rfl
@[simp] theorem State.cleared_errcode : s.cleared.errcode = 0#4 := rfl
@[simp] theorem State.cleared_arg0 : s.cleared.arg0 = 0#32 := rfl
@[simp] theorem State.cleared_arg1 : s.cleared.arg1 = 0#32 := rfl
@[simp] theorem State.cleared_arg2 : s.cleared.arg2 = 0#32 := rfl
@[simp] theorem State.cleared_arg3 : s.cleared.arg3 = 0#32 := rfl
@[simp] theorem State.cleared_result : s.cleared.result = 0#32 := rfl
@[simp] theorem State.cleared_pending : s.cleared.pending = 0#32 := rfl
@[simp] theorem State.cleared_poly : s.cleared.poly = PolyFile.empty := rfl
@[simp] theorem State.cleared_bb : s.cleared.bb = [] := rfl
@[simp] theorem State.cleared_blk : s.cleared.blk = [] := rfl
@[simp] theorem State.cleared_inbuf : s.cleared.inbuf = s.inbuf := rfl
@[simp] theorem State.cleared_cwbuf : s.cleared.cwbuf = s.cwbuf := rfl
@[simp] theorem State.cleared_lag : s.cleared.lag = 0 := rfl
@[simp] theorem State.cleared_free : s.cleared.free = s.free := rfl
@[simp] theorem State.cleared_inputs : s.cleared.inputs = s.inputs := rfl
@[simp] theorem State.cleared_rdata : s.cleared.rdata = s.rdata := rfl

/-! ## Polynomial registers -/

@[simp] theorem PolyFile.get_set_same (f : PolyFile) (k : PReg) (c : List Byte) : (f.set k c).get k = c := by
  cases k <;> rfl

theorem PolyFile.get_set_other (f : PolyFile) {j k : PReg} (c : List Byte) (h : j ≠ k) :
    (f.set k c).get j = f.get j := by
  cases j <;> cases k <;> first | rfl | exact absurd rfl h

@[simp] theorem PolyFile.get_empty (k : PReg) : PolyFile.empty.get k = [] := by cases k <;> rfl

/-- Two register files with the same four registers are the same. -/
theorem PolyFile.ext_get {f g : PolyFile} (h : ∀ k, f.get k = g.get k) : f = g := by
  have h0 := h .p0
  have h1 := h .p1
  have h2 := h .p2
  have h3 := h .p3
  cases f
  cases g
  simp_all [PolyFile.get]

end Sys2Proof.Machine
end

