-- ==== Sys2Proof/Laws/Memory.lean ====
section
/-! SUPPORT. The byte buffers: a read after a write, and the canonical form that every write keeps. -/

namespace Sys2Proof.Machine

theorem lookup_insertCell_same (a : Nat) (v : Byte) (cells : List Host.Cell) :
    (insertCell a v cells).lookup a = some v := by
  induction cells with
  | nil => simp [insertCell]
  | cons c rest ih =>
    obtain ⟨b, w⟩ := c
    unfold insertCell
    split
    · simp
    · split
      · simp
      · rename_i hne
        have : (a == b) = false := by simpa using hne
        simp [List.lookup_cons, this, ih]

theorem lookup_insertCell_other {a x : Nat} (v : Byte) (cells : List Host.Cell) (h : x ≠ a) :
    (insertCell a v cells).lookup x = cells.lookup x := by
  have hx : (x == a) = false := by simpa using h
  induction cells with
  | nil => simp [insertCell, List.lookup_cons, hx]
  | cons c rest ih =>
    obtain ⟨b, w⟩ := c
    unfold insertCell
    split
    · simp [List.lookup_cons, hx]
    · split
      · rename_i hab
        subst hab
        simp [List.lookup_cons, hx]
      · simp [List.lookup_cons, ih]

/-- Writing the same byte at the same address twice is writing it once (20_memory.md R90). -/
theorem insertCell_same (a : Nat) (v : Byte) : ∀ cells, insertCell a v (insertCell a v cells) = insertCell a v cells
  | [] => by simp [insertCell]
  | (b, w) :: rest => by
    by_cases h1 : a < b
    · simp [insertCell, h1]
    · by_cases h2 : a = b
      · simp [insertCell, h2]
      · simp [insertCell, h1, h2, insertCell_same a v rest]

/-- Writes at two addresses may change places. -/
theorem insertCell_comm (a b : Nat) (v w : Byte) (hab : a < b) :
    ∀ cells, insertCell b w (insertCell a v cells) = insertCell a v (insertCell b w cells)
  | [] => by simp [insertCell, hab, show ¬ b < a by omega, show ¬ b = a by omega]
  | (x, y) :: rest => by
    have := insertCell_comm a b v w hab rest
    simp only [insertCell]
    split_ifs <;> simp_all [insertCell] <;> (try split_ifs) <;> (try omega) <;> simp_all

@[simp] theorem Memory.read?_write_same (m : Memory) (a : Nat) (v : Byte) : (m.write a v).read? a = some v :=
  lookup_insertCell_same a v m.cells

theorem Memory.read?_write_other (m : Memory) {a x : Nat} (v : Byte) (h : x ≠ a) :
    (m.write a v).read? x = m.read? x := lookup_insertCell_other v m.cells h

@[simp] theorem Memory.write_epoch (m : Memory) (a : Nat) (v : Byte) : (m.write a v).epoch = m.epoch := rfl

@[simp] theorem Memory.writeBytes_epoch (m : Memory) (a : Nat) (vs : List Byte) : (m.writeBytes a vs).epoch = m.epoch := by
  induction vs generalizing m a with
  | nil => rfl
  | cons v vs ih => simp [Memory.writeBytes, ih]

/-- A byte outside the written range is unchanged. -/
theorem Memory.read?_writeBytes_outside (m : Memory) (a : Nat) (vs : List Byte) {x : Nat}
    (h : x < a ∨ a + vs.length ≤ x) : (m.writeBytes a vs).read? x = m.read? x := by
  induction vs generalizing m a with
  | nil => rfl
  | cons v vs ih =>
    simp only [List.length_cons] at h
    rw [Memory.writeBytes, ih _ _ (by omega), Memory.read?_write_other _ _ (by omega)]

/-- Byte `i` of the written bytes stands at address `a + i`. -/
theorem Memory.read?_writeBytes_inside (m : Memory) (a : Nat) (vs : List Byte) {i : Nat} (h : i < vs.length) :
    (m.writeBytes a vs).read? (a + i) = some vs[i] := by
  induction vs generalizing m a i with
  | nil => simp at h
  | cons v vs ih =>
    cases i with
    | zero =>
      rw [Memory.writeBytes, Memory.read?_writeBytes_outside _ _ _ (by omega)]
      simp
    | succ i =>
      have := ih (m.write a v) (a + 1) (i := i) (by simpa using h)
      rw [Memory.writeBytes, show a + (i + 1) = a + 1 + i by omega, this]
      simp

theorem mem_insertCell {a : Nat} {v : Byte} {cells : List Host.Cell} {c : Host.Cell}
    (h : c ∈ insertCell a v cells) : c.1 = a ∨ c ∈ cells := by
  induction cells with
  | nil => simp [insertCell] at h; simp [h]
  | cons d rest ih =>
    obtain ⟨b, w⟩ := d
    unfold insertCell at h
    split at h
    · rcases List.mem_cons.1 h with rfl | h
      · simp
      · exact .inr h
    · split at h
      · rcases List.mem_cons.1 h with rfl | h
        · simp
        · exact .inr (List.mem_cons_of_mem _ h)
      · rcases List.mem_cons.1 h with rfl | h
        · simp
        · rcases ih h with h | h
          · exact .inl h
          · exact .inr (List.mem_cons_of_mem _ h)

theorem insertCell_pairwise {a : Nat} {v : Byte} {cells : List Host.Cell}
    (h : cells.Pairwise (fun x y => x.1 < y.1)) : (insertCell a v cells).Pairwise (fun x y => x.1 < y.1) := by
  induction cells with
  | nil => simp [insertCell]
  | cons d rest ih =>
    obtain ⟨b, w⟩ := d
    have hb := (List.pairwise_cons.1 h).1
    have hr := (List.pairwise_cons.1 h).2
    unfold insertCell
    split
    · rename_i hab
      refine List.pairwise_cons.2 ⟨fun c hc => ?_, h⟩
      rcases List.mem_cons.1 hc with rfl | hc
      · exact hab
      · exact Nat.lt_trans hab (hb c hc)
    · split
      · rename_i hab
        subst hab
        exact List.pairwise_cons.2 ⟨fun c hc => hb c hc, hr⟩
      · rename_i h1 h2
        refine List.pairwise_cons.2 ⟨fun c hc => ?_, ih hr⟩
        rcases mem_insertCell hc with hc | hc
        · simp only [hc]
          omega
        · exact hb c hc

/-- A write below the buffer's size keeps the canonical form. -/
theorem Memory.write_wf {m : Memory} {size a : Nat} (v : Byte) (h : m.wf size) (ha : a < size) :
    (m.write a v).wf size := by
  refine ⟨insertCell_pairwise h.1, fun c hc => ?_⟩
  rcases mem_insertCell hc with hc | hc
  · omega
  · exact h.2 c hc

/-- Writing a range within the buffer's size keeps the canonical form. -/
theorem Memory.writeBytes_wf {m : Memory} {size a : Nat} (vs : List Byte) (h : m.wf size)
    (ha : a + vs.length ≤ size) : (m.writeBytes a vs).wf size := by
  induction vs generalizing m a with
  | nil => exact h
  | cons v vs ih =>
    simp only [List.length_cons] at ha
    exact ih (Memory.write_wf v h (by omega)) (by omega)

theorem Memory.unwritten_wf (size epoch : Nat) : (Memory.unwritten epoch).wf size := by
  simp [Memory.wf, Memory.unwritten]

end Sys2Proof.Machine
end

