-- ==== Sys2Proof/Laws/Ops.lean ====
section
/-! SUPPORT. The end of a command's step and the engine's whole interface to the state, each said once. -/

namespace Sys2Proof.Machine

/-- `finish` always answers a next state: the completed effects, or the failed start state. -/
theorem finish_cases (s : State) (r : Except ErrKind State) :
    (∃ t, r = .ok t ∧ finish s r = .next t.complete) ∨ (∃ k, r = .error k ∧ finish s r = .next (s.fail k)) := by
  cases r with
  | ok t => exact .inl ⟨t, rfl, rfl⟩
  | error k => exact .inr ⟨k, rfl, rfl⟩

@[simp] theorem finish_ok (s t : State) : finish s (.ok t) = .next t.complete := rfl

@[simp] theorem finish_error (s : State) (k : ErrKind) : finish s (.error k) = .next (s.fail k) := rfl

/-- `finish` answers `t` if and only if `t` is the completed effect or the failed start state. -/
theorem finish_eq_next {s t : State} {r : Except ErrKind State} :
    finish s r = .next t ↔ (∃ u, r = .ok u ∧ u.complete = t) ∨ (∃ k, r = .error k ∧ s.fail k = t) := by
  cases r <;> simp [finish]

theorem ErrKind.code_ne_zero (k : ErrKind) : k.code ≠ 0#4 := by cases k <;> decide

theorem ErrKind.code_le (k : ErrKind) : k.code.toNat ≤ 5 := by cases k <;> decide

end Sys2Proof.Machine
end

