-- ==== Sys2Proof/Laws/PerInstr.lean ====
section
/-! SUPPORT. The laws stated for every instruction, one lemma per constructor. -/

namespace Sys2Proof.Laws

/-- The word of a command is a legal command word, and exactly one row of the opcode map accepts it
(30_encoding.md R112, R117). -/
def RowEncoding.Statement (i : Instr) : Prop :=
  CommandWord.wellFormed (encode i) = true ∧ (opcodeRows.filter (·.accepts (encode i))).length = 1

theorem RowEncoding.nop : RowEncoding.Statement .nop := by
  unfold RowEncoding.Statement; decide

theorem RowEncoding.gexp : RowEncoding.Statement .gexp := by
  unfold RowEncoding.Statement; decide

theorem RowEncoding.glog : RowEncoding.Statement .glog := by
  unfold RowEncoding.Statement; decide

theorem RowEncoding.gmul : RowEncoding.Statement .gmul := by
  unfold RowEncoding.Statement; decide

theorem RowEncoding.pclr (pd : PReg) : RowEncoding.Statement (.pclr pd) := by
  cases pd <;> unfold RowEncoding.Statement <;> decide

theorem RowEncoding.ppush (pd : PReg) : RowEncoding.Statement (.ppush pd) := by
  cases pd <;> unfold RowEncoding.Statement <;> decide

theorem RowEncoding.pnorm (pd : PReg) : RowEncoding.Statement (.pnorm pd) := by
  cases pd <;> unfold RowEncoding.Statement <;> decide

theorem RowEncoding.pget (pa : PReg) : RowEncoding.Statement (.pget pa) := by
  cases pa <;> unfold RowEncoding.Statement <;> decide

theorem RowEncoding.plen (pa : PReg) : RowEncoding.Statement (.plen pa) := by
  cases pa <;> unfold RowEncoding.Statement <;> decide

theorem RowEncoding.pmov (pd pa : PReg) : RowEncoding.Statement (.pmov pd pa) := by
  cases pd <;> cases pa <;> unfold RowEncoding.Statement <;> decide

theorem RowEncoding.pmul (pd pa pb : PReg) : RowEncoding.Statement (.pmul pd pa pb) := by
  cases pd <;> cases pa <;> cases pb <;> unfold RowEncoding.Statement <;> decide

theorem RowEncoding.pmod (pd pa pb : PReg) : RowEncoding.Statement (.pmod pd pa pb) := by
  cases pd <;> cases pa <;> cases pb <;> unfold RowEncoding.Statement <;> decide

theorem RowEncoding.pgen (pd : PReg) : RowEncoding.Statement (.pgen pd) := by
  cases pd <;> unfold RowEncoding.Statement <;> decide

theorem RowEncoding.peval (pa : PReg) : RowEncoding.Statement (.peval pa) := by
  cases pa <;> unfold RowEncoding.Statement <;> decide

theorem RowEncoding.bbclr : RowEncoding.Statement .bbclr := by
  unfold RowEncoding.Statement; decide

theorem RowEncoding.bbput : RowEncoding.Statement .bbput := by
  unfold RowEncoding.Statement; decide

theorem RowEncoding.bbbit : RowEncoding.Statement .bbbit := by
  unfold RowEncoding.Statement; decide

theorem RowEncoding.bblen : RowEncoding.Statement .bblen := by
  unfold RowEncoding.Statement; decide

theorem RowEncoding.bbget : RowEncoding.Statement .bbget := by
  unfold RowEncoding.Statement; decide

theorem RowEncoding.seg : RowEncoding.Statement .seg := by
  unfold RowEncoding.Statement; decide

theorem RowEncoding.final : RowEncoding.Statement .final := by
  unfold RowEncoding.Statement; decide

theorem RowEncoding.blkclr : RowEncoding.Statement .blkclr := by
  unfold RowEncoding.Statement; decide

theorem RowEncoding.blkadd : RowEncoding.Statement .blkadd := by
  unfold RowEncoding.Statement; decide

theorem RowEncoding.blksel : RowEncoding.Statement .blksel := by
  unfold RowEncoding.Statement; decide

theorem RowEncoding.capbits : RowEncoding.Statement .capbits := by
  unfold RowEncoding.Statement; decide

theorem RowEncoding.rsblk (pd : PReg) : RowEncoding.Statement (.rsblk pd) := by
  cases pd <;> unfold RowEncoding.Statement <;> decide

theorem RowEncoding.rsrun : RowEncoding.Statement .rsrun := by
  unfold RowEncoding.Statement; decide

theorem RowEncoding.rssyn (pd pa : PReg) : RowEncoding.Statement (.rssyn pd pa) := by
  cases pd <;> cases pa <;> unfold RowEncoding.Statement <;> decide

theorem RowEncoding.fmtenc : RowEncoding.Statement .fmtenc := by
  unfold RowEncoding.Statement; decide

theorem RowEncoding.fmtchk : RowEncoding.Statement .fmtchk := by
  unfold RowEncoding.Statement; decide

end Sys2Proof.Laws
end

