-- ==== Sys2Proof/Laws/Poly.lean ====
section
/-! SUPPORT. The polynomial computations: lengths, leading coefficients, and that PMOD's loop ends. -/

namespace Sys2Proof.Machine

/-- `strip` never lengthens. -/
theorem strip_length_le (s : List Byte) : (strip s).length ≤ s.length := by
  induction s with
  | nil => simp [strip]
  | cons c cs ih =>
    unfold strip
    split
    · simp only [List.length_cons]; omega
    · simp

/-- What `strip` removes is zeros. -/
theorem strip_spec (s : List Byte) : s = zeros (s.length - (strip s).length) ++ strip s := by
  induction s with
  | nil => simp [strip, zeros]
  | cons c cs ih =>
    unfold strip
    split
    · rename_i h
      have := strip_length_le cs
      rw [List.length_cons, show cs.length + 1 - (strip cs).length = (cs.length - (strip cs).length) + 1 by omega]
      subst h
      simp only [zeros, List.replicate_succ, List.cons_append]
      exact congrArg _ ih
    · simp [zeros]

/-- A stripped sequence is empty or begins with a nonzero coefficient. -/
theorem strip_head (s : List Byte) : strip s = [] ∨ (strip s).headD 0#8 ≠ 0#8 := by
  induction s with
  | nil => simp [strip]
  | cons c cs ih =>
    unfold strip
    split
    · exact ih
    · rename_i h; simp [h]

/-- A sequence with a nonzero leading coefficient is already stripped. -/
theorem strip_of_head {s : List Byte} (h : s.headD 0#8 ≠ 0#8) : strip s = s := by
  cases s with
  | nil => rfl
  | cons c cs => simp at h; simp [strip, h]

/-- All zeros strip to the empty sequence. -/
theorem strip_zeros (n : Nat) : strip (zeros n) = [] := by
  induction n with
  | zero => rfl
  | succ n ih => simpa [zeros, List.replicate_succ, strip] using ih

/-- `xorInto` keeps the length. -/
theorem xorInto_length (c r : List Byte) : (xorInto c r).length = c.length := by
  induction c generalizing r with
  | nil => cases r <;> rfl
  | cons x xs ih => cases r <;> simp [xorInto, ih]

/-- `xorInto` adds index by index. -/
theorem xorInto_getD (c r : List Byte) (k : Nat) (h : r.length ≤ c.length) :
    (xorInto c r).getD k 0#8 = c.getD k 0#8 ^^^ r.getD k 0#8 := by
  induction c generalizing r k with
  | nil => cases r <;> simp_all [xorInto]
  | cons x xs ih =>
    cases r with
    | nil => simp [xorInto]
    | cons y ys =>
      cases k with
      | zero => simp [xorInto]
      | succ k => simpa [xorInto] using ih ys k (by simpa using h)

/-- The double loop keeps the length. -/
theorem mulRows_length (a b c : List Byte) : (mulRows a b c).length = c.length := by
  induction a generalizing c with
  | nil => rfl
  | cons x xs ih =>
    have hl := xorInto_length c (b.map (gmul x))
    unfold mulRows
    split
    · rename_i h; rw [h] at hl; simpa using hl
    · rename_i h; rw [h] at hl; simp [ih]; simpa using hl

/-- A product has at most `len(a) + len(b) - 1` coefficients. -/
theorem polyMul_length_le (a b : List Byte) : (polyMul a b).length ≤ a.length + b.length - 1 := by
  unfold polyMul
  split
  · simp
  · refine (strip_length_le _).trans ?_
    rw [mulRows_length]; simp [zeros]

/-- A pass clears the leading coefficient (41_polynomial.md R170 item 1). -/
theorem modPass_head {a b : List Byte} (hl : b.length ≤ a.length) (hb : b.length ≠ 0)
    (ha0 : a.headD 0#8 ≠ 0#8) (hb0 : b.headD 0#8 ≠ 0#8) :
    (xorInto a (b.map fun bi => if bi = 0#8 then 0#8 else
      gexp ((logRom bi : Int) + ((logRom (a.headD 0#8) : Int) - (logRom (b.headD 0#8) : Int))))).headD 0#8 = 0#8 := by
  cases b with
  | nil => simp at hb
  | cons b0 bs =>
    cases a with
    | nil => simp at hl
    | cons a0 as =>
      simp only [List.headD_cons] at ha0 hb0
      have h1 : ((logRom a0 : Int) % 255).toNat = logRom a0 := by
        have := logRom_lt ha0
        omega
      simp [xorInto, hb0, gexp, h1, expRom_logRom ha0]

/-- A pass shortens the dividend (41_polynomial.md R170 item 1). -/
theorem modPass_length_lt {a b : List Byte} (hb : b.length ≠ 0) (hl : b.length ≤ a.length)
    (ha0 : a.headD 0#8 ≠ 0#8) (hb0 : b.headD 0#8 ≠ 0#8) : (modPass a b).length < a.length := by
  have h := modPass_head hl hb ha0 hb0
  have hlen := xorInto_length a (b.map fun bi => if bi = 0#8 then 0#8 else
      gexp ((logRom bi : Int) + ((logRom (a.headD 0#8) : Int) - (logRom (b.headD 0#8) : Int))))
  unfold modPass
  simp only
  revert h hlen
  generalize xorInto a _ = c
  intro h hlen
  cases c with
  | nil => simp at hlen; omega
  | cons c cs =>
    simp only [List.headD_cons] at h
    subst h
    have := strip_length_le cs
    simp only [strip, if_true]
    simp at hlen
    omega

/-- A pass ends stripped. -/
theorem modPass_head_ok (a b : List Byte) : modPass a b = [] ∨ (modPass a b).headD 0#8 ≠ 0#8 := strip_head _

/-- PMOD's loop with fuel to spare: it ends with a remainder. -/
theorem modLoop_ok {fuel : Nat} {a b : List Byte} (hf : a.length < fuel) (hb : b.length ≠ 0)
    (hb0 : b.headD 0#8 ≠ 0#8) (ha : a.length < b.length ∨ a.headD 0#8 ≠ 0#8) :
    ∃ r, modLoop fuel a b = .ok r ∧ r.length < b.length ∧ r.length ≤ a.length ∧
      (a.length < b.length → r = a) := by
  induction fuel generalizing a with
  | zero => omega
  | succ fuel ih =>
    unfold modLoop
    split
    · rename_i h; exact ⟨a, rfl, h, Nat.le_refl _, fun _ => rfl⟩
    · rename_i h
      have ha0 : a.headD 0#8 ≠ 0#8 := ha.resolve_left h
      rw [if_neg ha0]
      have hlt := modPass_length_lt hb (by omega) ha0 hb0
      have hh : (modPass a b).length < b.length ∨ (modPass a b).headD 0#8 ≠ 0#8 := by
        rcases modPass_head_ok a b with h0 | h0
        · left; rw [h0]; simp; omega
        · exact .inr h0
      obtain ⟨r, h1, h2, h3, -⟩ := ih (by omega) hh
      exact ⟨r, h1, h2, by omega, fun h' => absurd h' h⟩

/-- PMOD succeeds on a legal divisor and a dividend that is shorter or has no leading zero. -/
theorem polyMod_ok {a b : List Byte} (hb : b.length ≠ 0)
    (hb0 : b.headD 0#8 ≠ 0#8) (ha : a.length < b.length ∨ a.headD 0#8 ≠ 0#8) :
    ∃ r, polyMod a b = .ok r ∧ r.length < b.length ∧ r.length ≤ a.length ∧ (a.length < b.length → r = a) := by
  unfold polyMod
  rw [if_neg hb, if_neg hb0]
  exact modLoop_ok (Nat.lt_succ_self _) hb hb0 ha

/-- The loop's remainder is never longer than the dividend. -/
theorem modLoop_length_le {fuel : Nat} {a b r : List Byte} (h : modLoop fuel a b = .ok r) : r.length ≤ a.length := by
  induction fuel generalizing a with
  | zero => simp [modLoop] at h; simp [h]
  | succ fuel ih =>
    unfold modLoop at h
    split at h
    · simp at h; simp [h]
    · split at h
      · simp at h
      · refine (ih h).trans ?_
        unfold modPass
        exact (strip_length_le _).trans (by rw [xorInto_length])

theorem polyMod_length_le {a b r : List Byte} (h : polyMod a b = .ok r) : r.length ≤ a.length := by
  unfold polyMod at h
  split at h
  · simp at h
  · split at h
    · simp at h
    · exact modLoop_length_le h

/-- PMOD fails only with DOMAIN (60_exceptions.md R306). -/
theorem polyMod_error {a b : List Byte} {k : ErrKind} (h : polyMod a b = .error k) : k = .domain := by
  have : ∀ fuel a, modLoop fuel a b = .error k → k = .domain := by
    intro fuel
    induction fuel with
    | zero => intro a h; simp [modLoop] at h
    | succ fuel ih =>
      intro a h
      unfold modLoop at h
      split at h
      · simp at h
      · split at h
        · simpa using h.symm
        · exact ih _ h
  unfold polyMod at h
  split at h
  · simpa using h.symm
  · split at h
    · simpa using h.symm
    · exact this _ _ h

/-- The next generator is the last one times the next factor (41_polynomial.md R171). -/
theorem genPoly_succ (n : Nat) : genPoly (n + 1) = polyMul (genPoly n) [1#8, expRom (n % 255)] := by
  simp [genPoly, List.range_succ]

/-- Factors without leading zeros: nothing is stripped from the product. -/
theorem polyMul_head {a b : List Byte} (ha : a.headD 0#8 ≠ 0#8) (hb : b.headD 0#8 ≠ 0#8) :
    (polyMul a b).length = a.length + b.length - 1 ∧ (polyMul a b).headD 0#8 = gmul (a.headD 0#8) (b.headD 0#8) := by
  cases a with
  | nil => simp at ha
  | cons a0 as =>
    cases b with
    | nil => simp at hb
    | cons b0 bs =>
      simp only [List.headD_cons] at ha hb ⊢
      have hz : zeros ((a0 :: as).length + (b0 :: bs).length - 1) = 0#8 :: zeros (as.length + bs.length) := by
        simp only [List.length_cons, zeros]
        rw [show as.length + 1 + (bs.length + 1) - 1 = (as.length + bs.length) + 1 by omega, List.replicate_succ]
      have hp : gmul a0 b0 ≠ 0#8 := by simp [gmul_eq_zero, ha, hb]
      unfold polyMul
      rw [if_neg (by simp), hz]
      have hm : mulRows (a0 :: as) (b0 :: bs) (0#8 :: zeros (as.length + bs.length)) =
          gmul a0 b0 :: mulRows as (b0 :: bs) (xorInto (zeros (as.length + bs.length)) (bs.map (gmul a0))) := by
        simp [mulRows, xorInto]
      rw [hm, strip_of_head (by simpa using hp)]
      simp [mulRows_length, xorInto_length, zeros]
      omega

/-- The generator of degree `n` has `n + 1` coefficients, the first of them 1 (41_polynomial.md R171). -/
theorem genPoly_shape (n : Nat) : (genPoly n).length = n + 1 ∧ (genPoly n).headD 0#8 = 1#8 := by
  induction n with
  | zero => simp [genPoly]
  | succ n ih =>
    have h := polyMul_head (a := genPoly n) (b := [1#8, expRom (n % 255)]) (by rw [ih.2]; decide) (by simp)
    rw [genPoly_succ]
    refine ⟨by rw [h.1, ih.1]; simp, ?_⟩
    rw [h.2, ih.2, List.headD_cons, gmul_one_left]

/-- What RSBLK divides is shorter than the generator or has no leading zero (43_reed_solomon.md R235). -/
theorem construct_ready (data : List Byte) (e : Nat) :
    (construct data e).length < (genPoly e).length ∨ (construct data e).headD 0#8 ≠ 0#8 := by
  rcases strip_head data with h | h
  · left; simp [construct, h, zeros, (genPoly_shape e).1]
  · right
    unfold construct
    cases hs : strip data with
    | nil => simp [hs] at h
    | cons c cs => simpa [hs] using h

/-- `ecOf` always gives exactly `e` codewords. -/
theorem ecOf_ok (data : List Byte) (e : Nat) : ∃ ec, ecOf data e = .ok ec ∧ ec.length = e := by
  obtain ⟨r, h, -⟩ := polyMod_ok (a := construct data e) (b := genPoly e)
    (by rw [(genPoly_shape e).1]; omega) (by rw [(genPoly_shape e).2]; decide) (construct_ready data e)
  unfold ecOf
  rw [h]
  exact ⟨_, rfl, by simp⟩

theorem syndromes_length (p : List Byte) (e : Nat) : (syndromes p e).length = e := by simp [syndromes]

/-- The fold takes the greatest length. -/
theorem length_le_foldl_max (xs : List (List Byte)) (m : Nat) :
    m ≤ xs.foldl (fun m x => max m x.length) m ∧
      ∀ x ∈ xs, x.length ≤ xs.foldl (fun m x => max m x.length) m := by
  induction xs generalizing m with
  | nil => simp
  | cons y ys ih =>
    have := ih (max m y.length)
    simp only [List.foldl_cons, List.mem_cons, forall_eq_or_imp]
    refine ⟨by omega, by omega, this.2⟩

/-- Reading columns of `n` rows or more visits every byte once. -/
theorem column_sum (xs : List (List Byte)) (n : Nat) (h : ∀ x ∈ xs, x.length ≤ n) :
    ((List.range n).flatMap fun i => xs.filterMap fun x => x[i]?).length = (xs.map List.length).sum := by
  induction xs with
  | nil => simp
  | cons y ys ih =>
    have hy : y.length ≤ n := h y (by simp)
    have hys := ih fun x hx => h x (by simp [hx])
    have : ∀ i, ((y :: ys).filterMap fun x => x[i]?).length = (if i < y.length then 1 else 0) + (ys.filterMap fun x => x[i]?).length := by
      intro i
      rw [List.filterMap_cons]
      by_cases hi : i < y.length
      · simp [hi]; omega
      · simp [hi]
    rw [List.length_flatMap] at hys ⊢
    simp only [this, List.map_cons, List.sum_cons]
    rw [← hys]
    have hs : ∀ n, y.length ≤ n → ((List.range n).map fun i => if i < y.length then 1 else 0).sum = y.length := by
      intro n
      induction n with
      | zero => intro h; simp; omega
      | succ n ihn =>
        intro h
        rw [List.range_succ, List.map_append, List.sum_append]
        by_cases hn : y.length ≤ n
        · rw [ihn hn]; simp; omega
        · have hh : y.length = n + 1 := by omega
          have : ((List.range n).map fun i => if i < y.length then 1 else 0) = List.replicate n 1 := by
            apply List.ext_getElem
            · simp
            · intro i h1 h2
              simp at h1 ⊢; omega
          rw [this]
          simp [hh]
    have hadd : ∀ (f g : Nat → Nat) (l : List Nat), (l.map fun i => f i + g i).sum = (l.map f).sum + (l.map g).sum := by
      intro f g l
      induction l with
      | nil => rfl
      | cons a l ihl => simp [ihl]; omega
    rw [hadd, hs n hy]

/-- Interleaving emits each byte of each sequence once. -/
theorem interleave_length (xs : List (List Byte)) : (interleave xs).length = (xs.map List.length).sum :=
  column_sum xs _ (length_le_foldl_max xs 0).2

end Sys2Proof.Machine
end

