-- ==== Sys2Proof/Laws/ReedSolomon.lean ====
section
/-! SUPPORT. The block slicing and the EC codewords of a block list. -/

namespace Sys2Proof.Machine

/-- One byte sequence for each block. -/
theorem sliceBlocks_length (bb : List Bool) (o : Nat) (bs : List Block) : (sliceBlocks bb o bs).length = bs.length := by
  induction bs generalizing o with
  | nil => rfl
  | cons b bs ih => simp [sliceBlocks, ih]

/-- Each block's slice has its data count. -/
theorem sliceBlocks_sizes (bb : List Bool) (o : Nat) (bs : List Block) :
    (sliceBlocks bb o bs).map List.length = bs.map Block.data := by
  induction bs generalizing o with
  | nil => rfl
  | cons b bs ih => simp [sliceBlocks, ih, bbBytes]

/-- The EC codewords of every block exist, and each block has its EC count (43_reed_solomon.md R235, R236). -/
theorem ecBlocks_ok {bs : List Block} {ds : List (List Byte)} (h : ds.length = bs.length) :
    ∃ es, ecBlocks bs ds = .ok es ∧ es.map List.length = bs.map fun b => b.total - b.data := by
  induction bs generalizing ds with
  | nil => exact ⟨[], by cases ds <;> rfl, rfl⟩
  | cons b bs ih =>
    cases ds with
    | nil => simp at h
    | cons d ds =>
      obtain ⟨e, he, hlen⟩ := ecOf_ok d (b.total - b.data)
      obtain ⟨es, hes, hsz⟩ := ih (ds := ds) (by simpa using h)
      exact ⟨e :: es, by simp [ecBlocks, he, hes], by simp [hlen, hsz]⟩

/-- The stream of RSRUN has `sum(total)` bytes (43_reed_solomon.md R237). -/
theorem stream_length {bs : List Block} {ds es : List (List Byte)} (hd : ds.map List.length = bs.map Block.data)
    (he : es.map List.length = bs.map fun b => b.total - b.data) (hb : ∀ b ∈ bs, b.data ≤ b.total) :
    (interleave ds ++ interleave es).length = (bs.map Block.total).sum := by
  rw [List.length_append, interleave_length, interleave_length, hd, he]
  clear hd he
  induction bs with
  | nil => rfl
  | cons b bs ih =>
    have h1 := hb b (by simp)
    have h2 := ih fun c hc => hb c (by simp [hc])
    simp only [List.map_cons, List.sum_cons]
    omega

end Sys2Proof.Machine
end

