-- ==== Sys2Proof/Laws/Step.lean ====
section
/-! SUPPORT. What one step can do, said once, and the shape of host accesses. -/

namespace Sys2Proof.Machine

/-- What one step can do. -/
theorem step_cases {s t : State} (h : step s = .next t) :
    (s.engineTurn = true ∧ ∃ i, decode s.pending = .ok i ∧ exec i s = .next t) ∨
    (s.engineTurn = true ∧ (∃ e, decode s.pending = .error e) ∧ t = s.fail .illegal) ∨
    (s.engineTurn = false ∧ s.inputs = [] ∧ t = s) ∨
    (s.engineTurn = false ∧ ∃ e rest, s.inputs = e :: rest ∧
      t = ({ s with inputs := rest, lag := s.lag - 1 } : State).receive e) := by
  unfold step State.advance at h
  split at h
  · rename_i ht
    unfold State.runPending at h
    split at h
    · rename_i i hd; exact .inl ⟨ht, i, hd, h⟩
    · rename_i e hd; cases h; exact .inr (.inl ⟨ht, ⟨e, hd⟩, rfl⟩)
  · rename_i ht
    have ht : s.engineTurn = false := by simpa using ht
    split at h
    · rename_i hi; cases h; exact .inr (.inr (.inl ⟨ht, hi, rfl⟩))
    · rename_i e rest hi; cases h; exact .inr (.inr (.inr ⟨ht, e, rest, hi, rfl⟩))

/-- On the engine's turn a legal word runs. -/
theorem step_of_engineTurn {s : State} {i : Instr} (ht : s.engineTurn = true) (hd : decode s.pending = .ok i) :
    step s = exec i s := by simp [step, State.advance, ht, State.runPending, hd]

/-- Otherwise the next input is taken. -/
theorem step_of_input {s : State} {e : Input} {rest : List Input} (ht : s.engineTurn = false) (hi : s.inputs = e :: rest) :
    step s = .next (({ s with inputs := rest, lag := s.lag - 1 } : State).receive e) := by
  simp [step, State.advance, ht, hi]

/-- A host read changes nothing but the data port and, where the word is unspecified, the counter of free values. -/
theorem hostRead_cases (s : State) (addr : Addr) :
    (∃ v, s.readTarget (target addr) = some v ∧ s.hostRead addr = { s with rdata := v }) ∨
    (s.readTarget (target addr) = none ∧ s.hostRead addr = { s with rdata := Config.unspecRead s.free, free := s.free + 1 }) := by
  unfold State.hostRead
  split
  · rename_i v h; exact .inl ⟨v, h, rfl⟩
  · rename_i h; exact .inr ⟨h, rfl⟩

/-- The register region holds no window word. -/
theorem registerAt_ne_inbuf (a b : Nat) : registerAt a ≠ .inbuf b := by
  unfold registerAt
  split <;> simp

/-- Clearing bits 1:0 of an offset rounds it down to a multiple of 4 (20_memory.md R88). -/
theorem aligned_toNat (addr : Addr) : (addr &&& 0x3FFC#14).toNat = addr.toNat / 4 * 4 := by
  have h : addr &&& 0x3FFC#14 = (addr >>> 2) <<< 2 := by
    apply BitVec.eq_of_getLsbD_eq
    intro i hi
    interval_cases i <;> simp
  have := addr.isLt
  rw [h, BitVec.toNat_shiftLeft, BitVec.toNat_ushiftRight, Nat.shiftLeft_eq, Nat.shiftRight_eq_div_pow]
  omega

/-- A word of the INBUF window lies within the buffer (20_memory.md R83). -/
theorem target_inbuf {addr : Addr} {b : Nat} (h : target addr = .inbuf b) : b + 4 ≤ 4096 := by
  have hm := aligned_toNat addr
  unfold target at h
  simp only at h
  revert hm h
  generalize (addr &&& 0x3FFC#14).toNat = x
  intro h hm
  split at h
  · exact absurd h (registerAt_ne_inbuf x b)
  · split at h
    · have := Target.inbuf.inj h; omega
    · split at h <;> simp at h

/-- Bits 1:0 of an offset do not matter (20_memory.md R88). -/
theorem target_aligned (addr : Addr) : target (addr &&& 0x3FFC#14) = target addr := by
  unfold target
  rw [BitVec.and_assoc, show (0x3FFC#14 &&& 0x3FFC#14) = 0x3FFC#14 by decide]

/-- Every offset of a register word reaches that register (20_memory.md R82, R88). -/
theorem target_of_aligned {addr a : Addr} (h : addr &&& 0x3FFC#14 = a) : target addr = target a := by
  rw [← h, target_aligned]

/-- The offsets 0x0024 to 0x0FFF are reserved (10_state.md R40). -/
theorem target_reserved {addr : Addr} (h1 : 0x24 ≤ addr.toNat) (h2 : addr.toNat ≤ 0xFFF) : target addr = .reserved := by
  unfold target
  simp only [aligned_toNat]
  rw [if_pos (by omega)]
  unfold registerAt
  split <;> first | rfl | (exfalso; omega)

/-- The INBUF window (20_memory.md R83). -/
theorem target_inbuf_window {addr : Addr} (h1 : 0x1000 ≤ addr.toNat) (h2 : addr.toNat ≤ 0x1FFF) :
    target addr = .inbuf ((addr.toNat - 0x1000) / 4 * 4) := by
  unfold target
  simp only [aligned_toNat]
  rw [if_neg (by omega), if_pos (by omega)]
  exact congrArg _ (by omega)

/-- The BITBUF window (20_memory.md R84). -/
theorem target_bitbuf_window {addr : Addr} (h1 : 0x2000 ≤ addr.toNat) (h2 : addr.toNat ≤ 0x2FFF) :
    target addr = .bitbuf (addr.toNat % 0x1000 / 4 * 4) := by
  unfold target
  simp only [aligned_toNat]
  rw [if_neg (by omega), if_neg (by omega), if_pos (by omega)]
  exact congrArg _ (by omega)

/-- The CWBUF window (20_memory.md R85). -/
theorem target_cwbuf_window {addr : Addr} (h : 0x3000 ≤ addr.toNat) : target addr = .cwbuf (addr.toNat % 0x1000 / 4 * 4) := by
  unfold target
  simp only [aligned_toNat]
  rw [if_neg (by omega), if_neg (by omega), if_neg (by omega)]
  exact congrArg _ (by omega)

/-- Below 0x1000 an offset reaches the register of its word (20_memory.md R82). -/
theorem target_register {addr : Addr} (h : addr.toNat < 0x1000) : target addr = registerAt (addr.toNat / 4 * 4) := by
  unfold target
  simp only [aligned_toNat]
  rw [if_pos (by omega)]

/-- A write at a CTRL offset is a CTRL write (10_state.md R32). -/
theorem hostWrite_ctrl (s : State) {addr : Addr} (h : addr &&& 0x3FFC#14 = 0x0004#14) (v : Word) :
    s.hostWrite addr v = s.writeCtrl v := by
  unfold State.hostWrite
  rw [target_of_aligned h]
  rfl

/-- A write at a CMD offset is a CMD write (60_exceptions.md R301). -/
theorem hostWrite_cmd (s : State) {addr : Addr} (h : addr &&& 0x3FFC#14 = 0x000C#14) (v : Word) :
    s.hostWrite addr v = s.writeCmd v := by
  unfold State.hostWrite
  rw [target_of_aligned h]
  rfl

/-- Everything a host write can do: act on CTRL or CMD, nothing, an overrun while BUSY, or, while idle, one ARG register
or one INBUF word (20_memory.md R82 to R85, 60_exceptions.md R302). -/
theorem writeTarget_cases (s : State) (t : Target) (v : Word) :
    (t = .ctrl ∧ s.writeTarget t v = s.writeCtrl v) ∨ (t = .cmd ∧ s.writeTarget t v = s.writeCmd v) ∨
    s.writeTarget t v = s ∨ (s.busy = true ∧ s.writeTarget t v = s.overrun) ∨
    (s.busy = false ∧ ∃ a b c d, s.writeTarget t v = { s with arg0 := a, arg1 := b, arg2 := c, arg3 := d }) ∨
    (s.busy = false ∧ ∃ b, t = .inbuf b ∧ s.writeTarget t v = s.withInbufWord b v) := by
  cases t <;> simp only [State.writeTarget]
  case ctrl => simp
  case cmd => simp
  all_goals first | (right; right; left; trivial) | skip
  all_goals cases hb : s.busy
  case inbuf.false => right; right; right; right; right; exact ⟨rfl, _, rfl, rfl⟩
  all_goals first
    | (right; right; right; right; left; exact ⟨rfl, _, _, _, _, rfl⟩)
    | (right; right; right; left; exact ⟨rfl, rfl⟩)

/-- Every meaning ends through `finish` (60_exceptions.md R303 to R305). -/
theorem exec_finish (i : Instr) (s : State) : ∃ r, exec i s = finish s r := by
  cases i <;> first | exact ⟨.ok _, rfl⟩ | exact ⟨_, rfl⟩

end Sys2Proof.Machine
end

