-- ==== Sys2Proof/Tests/Slice0.lean ====
section
/-! SUPPORT. Tests of the model, whose expected values are those of the spec (30_encoding.md R117, 95_test_vectors.md),
and for every statement with hypotheses a concrete state and operands that meet them. -/

namespace Sys2Proof.Tests

open Sys2Proof.Machine Sys2Proof.Spec

/-! ## Helpers -/

/-- The reset state with the four ARG registers set. -/
def args (a b c d : Nat) : State :=
  { State.reset with arg0 := BitVec.ofNat 32 a, arg1 := BitVec.ofNat 32 b, arg2 := BitVec.ofNat 32 c, arg3 := BitVec.ofNat 32 d }

/-- A byte list from numbers. -/
def bytes (l : List Nat) : List Byte := l.map (BitVec.ofNat 8)

/-- The state with polynomials in P0 and P1. -/
def withP (p0 p1 : List Nat) (s : State) : State := { s with poly := { s.poly with p0 := bytes p0, p1 := bytes p1 } }

/-- The state with a bit buffer that holds the given bytes. -/
def withBB (l : List Nat) (s : State) : State := { s with bb := l.flatMap fun v => bits v 8 }

/-- The state with the given bytes at the start of INBUF. -/
def withIn (l : List Nat) (s : State) : State := { s with inbuf := s.inbuf.writeBytes 0 (bytes l) }

/-- The state with one block of 26 codewords, 16 of them data (version 1, level M). -/
def with1M (s : State) : State := { s with blk := [{ total := 26, data := 16 }] }

/-- The state with a command in flight and no input. -/
def inFlight (w : Word) : State := { State.reset with busy := true, pending := w }

/-- The state a command leads to. -/
def after (i : Instr) (s : State) : State :=
  match exec i s with
  | .next t => t
  | .fault _ => s
  | .refused _ => s

theorem after_eq {i : Instr} {s : State} {r : Except ErrKind State} (h : exec i s = finish s r) :
    exec i s = .next (after i s) := by
  unfold after
  rw [h]
  cases r <;> rfl

/-- The state one step leads to. -/
def stepped (s : State) : State :=
  match step s with
  | .next t => t
  | .fault _ => s
  | .refused _ => s

/-- A polynomial as numbers. -/
def nums (l : List Byte) : List Nat := l.map BitVec.toNat

/-- A bit string from its digits. -/
def bitString (l : List Nat) : List Bool := l.map (· == 1)

/-! ## Well-formedness: each check refuses an ill-formed word (95 V25) -/

theorem test_wf_reserved_opcode : CommandWord.opcodeListed 0x13#32 = false ∧ CommandWord.opcodeListed 0xFF#32 = false ∧
    CommandWord.wellFormed 0x13#32 = false := by decide
theorem test_wf_reserved_bits : CommandWord.reservedZero 0x4010#32 = false ∧ CommandWord.wellFormed 0x4010#32 = false := by
  decide
theorem test_wf_unused_field : CommandWord.unusedZero 0x420#32 = false ∧ CommandWord.unusedZero 0x1020#32 = false ∧
    CommandWord.wellFormed 0x420#32 = false := by decide
theorem test_wf_accepts : CommandWord.wellFormed 0x2726#32 = true ∧ CommandWord.wellFormed 0x0#32 = true := by decide

/-! ## Decoding: the word of every command, written out from 30_encoding.md R110 and R117 -/

theorem test_decode_nop : decode 0x00000000#32 = .ok .nop := by decide
theorem test_decode_gexp : decode 0x00000010#32 = .ok .gexp := by decide
theorem test_decode_glog : decode 0x00000011#32 = .ok .glog := by decide
theorem test_decode_gmul : decode 0x00000012#32 = .ok .gmul := by decide
theorem test_decode_pclr : decode 0x00000120#32 = .ok (.pclr .p1) := by decide
theorem test_decode_ppush : decode 0x00000221#32 = .ok (.ppush .p2) := by decide
theorem test_decode_pnorm : decode 0x00000222#32 = .ok (.pnorm .p2) := by decide
theorem test_decode_pget : decode 0x00000423#32 = .ok (.pget .p1) := by decide
theorem test_decode_plen : decode 0x00000C24#32 = .ok (.plen .p3) := by decide
theorem test_decode_pmov : decode 0x00000325#32 = .ok (.pmov .p3 .p0) := by decide
theorem test_decode_pmul : decode 0x00002726#32 = .ok (.pmul .p3 .p1 .p2) := by decide
theorem test_decode_pmod : decode 0x00000927#32 = .ok (.pmod .p1 .p2 .p0) := by decide
theorem test_decode_pgen : decode 0x00000028#32 = .ok (.pgen .p0) := by decide
theorem test_decode_peval : decode 0x00000C29#32 = .ok (.peval .p3) := by decide
theorem test_decode_bbclr : decode 0x00000030#32 = .ok .bbclr := by decide
theorem test_decode_bbput : decode 0x00000031#32 = .ok .bbput := by decide
theorem test_decode_bbbit : decode 0x00000032#32 = .ok .bbbit := by decide
theorem test_decode_bblen : decode 0x00000033#32 = .ok .bblen := by decide
theorem test_decode_bbget : decode 0x00000034#32 = .ok .bbget := by decide
theorem test_decode_seg : decode 0x00000035#32 = .ok .seg := by decide
theorem test_decode_final : decode 0x00000036#32 = .ok .final := by decide
theorem test_decode_blkclr : decode 0x00000040#32 = .ok .blkclr := by decide
theorem test_decode_blkadd : decode 0x00000041#32 = .ok .blkadd := by decide
theorem test_decode_blksel : decode 0x00000042#32 = .ok .blksel := by decide
theorem test_decode_capbits : decode 0x00000043#32 = .ok .capbits := by decide
theorem test_decode_rsblk : decode 0x00000144#32 = .ok (.rsblk .p1) := by decide
theorem test_decode_rsrun : decode 0x00000045#32 = .ok .rsrun := by decide
theorem test_decode_rssyn : decode 0x00000646#32 = .ok (.rssyn .p2 .p1) := by decide
theorem test_decode_fmtenc : decode 0x00000050#32 = .ok .fmtenc := by decide
theorem test_decode_fmtchk : decode 0x00000051#32 = .ok .fmtchk := by decide
theorem test_decode_illegal : decode 0x13#32 = .error .reservedOpcode ∧ decode 0xFF#32 = .error .reservedOpcode ∧
    decode 0x4010#32 = .error .reservedBits ∧ decode 0x420#32 = .error .unusedField ∧
    decode 0x1020#32 = .error .unusedField := by decide
theorem test_decode_table_word : decodeTableWord 32 0x2726 = some (.pmul .p3 .p1 .p2) ∧ decodeTableWord 32 0x13 = none := by
  decide
theorem test_encode_operands : encode (.pmul .p3 .p3 .p1) = 0x1F26#32 ∧ encode (.rssyn .p2 .p1) = 0x646#32 := by decide

/-! ## One step of each command (95 V2 to V24) -/

theorem test_nop : (after .nop (inFlight 0#32)).statusWord = 0x02#32 := by decide
theorem test_gexp_minus_one : (after .gexp (args 0xFFFFFFFF 0 0 0)).result = 142#32 := by decide
theorem test_gexp_int_min : (after .gexp (args 0x80000000 0 0 0)).result = 204#32 := by decide
theorem test_glog : (after .glog (args 29 0 0 0)).result = 8#32 := by decide
theorem test_glog_zero : (after .glog (args 0 0 0 0)).statusWord = 0x16#32 := by decide
theorem test_gmul_reduces : (after .gmul (args 2 128 0 0)).result = 29#32 := by decide
theorem test_gmul_domain : (after .gmul (args 1 256 0 0)).statusWord = 0x16#32 := by decide
theorem test_pclr : (after (.pclr .p1) (withP [1] [2] State.reset)).poly = ⟨bytes [1], [], [], []⟩ := by decide
theorem test_ppush_zero : (after (.ppush .p0) (args 0 0 0 0)).poly.p0 = [0#8] := by decide
theorem test_ppush_domain : (after (.ppush .p0) (args 256 0 0 0)).statusWord = 0x16#32 := by decide
theorem test_pnorm : (let t := after (.pnorm .p0) (withP [0, 0, 5, 0] [] (args 3 0 0 0))
    (nums t.poly.p0, t.result)) = ([5, 0, 0, 0, 0], 5#32) := by decide
theorem test_pnorm_resource : (after (.pnorm .p2) (args 600 0 0 0)).statusWord = 0x46#32 := by decide
theorem test_pget : (after (.pget .p1) (withP [] [1, 7, 14, 8] (args 3 0 0 0))).result = 8#32 := by decide
theorem test_pget_domain : (after (.pget .p1) (withP [] [1, 2] (args 2 0 0 0))).statusWord = 0x16#32 := by decide
theorem test_plen : (after (.plen .p1) (withP [] [1, 7, 14, 8] State.reset)).result = 4#32 := by decide
theorem test_pmov : nums (after (.pmov .p3 .p0) (withP [0, 5] [] State.reset)).poly.p3 = [0, 5] := by decide
theorem test_pmul_strips : (let t := after (.pmul .p2 .p0 .p1) (withP [0, 0, 3] [1, 2] State.reset)
    (nums t.poly.p2, t.result)) = ([3, 6], 2#32) := by decide
theorem test_pmul_in_place : nums (after (.pmul .p0 .p0 .p0) (withP [1, 1] [] State.reset)).poly.p0 = [1, 0, 1] := by decide
theorem test_pmod : (let t := after (.pmod .p2 .p0 .p1) (withP [7, 0, 0, 0] [1, 7, 14, 8] State.reset)
    (nums t.poly.p2, t.result)) = ([21, 42, 56], 3#32) := by decide
theorem test_pmod_leading_zero : (after (.pmod .p2 .p0 .p1) (withP [0, 0, 0] [1, 2] State.reset)).statusWord = 0x16#32 := by
  decide
theorem test_pgen : nums (after (.pgen .p2) (args 3 0 0 0)).poly.p2 = [1, 7, 14, 8] := by decide
theorem test_pgen_resource : (after (.pgen .p2) (args 512 0 0 0)).statusWord = 0x46#32 := by decide
theorem test_peval : (after (.peval .p0) (withP [1, 7, 14, 8] [] (args 8 0 0 0))).result = 159#32 := by decide
theorem test_peval_root : (after (.peval .p0) (withP [1, 7, 14, 8] [] (args 4 0 0 0))).result = 0#32 := by decide
theorem test_bbclr : (after .bbclr (withBB [1] State.reset)).bb = [] := by decide
theorem test_bbput : (after .bbput (args 5 4 0 0)).bb = bitString [0, 1, 0, 1] := by decide
theorem test_bbput_domain : (after .bbput (args 0 33 0 0)).statusWord = 0x16#32 := by decide
theorem test_bbbit : (after .bbbit (args 0x80000000 0 0 0)).bb = [true] := by decide
theorem test_bblen : (after .bblen (withBB [0x5F, 0xDE] State.reset)).result = 16#32 := by decide
theorem test_bbget : (after .bbget (withBB [0x5F] (args 1 0 0 0))).result = 1#32 := by decide
theorem test_bbget_domain : (after .bbget (withBB [0x5F] (args 8 0 0 0))).statusWord = 0x16#32 := by decide
theorem test_seg_numeric : (after .seg (withIn [0x31, 0x32, 0x33, 0x34, 0x35, 0x36] (args 0 0 6 1))).bb =
    bitString [0, 0, 0, 1, 0, 0, 0, 0, 0, 0, 0, 1, 1, 0, 0, 0, 0, 1, 1, 1, 1, 0, 1, 1, 0, 1, 1, 1, 0, 0, 1, 0, 0, 0] := by
  decide +kernel
theorem test_seg_kanji_skips : (let t := after .seg (withIn [0x93, 0x5F, 0x00, 0x41, 0xE4, 0xAA] (args 3 0 6 1))
    (t.bb.take 12, t.result)) = (bitString [1, 0, 0, 0, 0, 0, 0, 0, 0, 0, 1, 1], 38#32) := by decide +kernel
theorem test_final_pads : (let t := after .final { with1M State.reset with bb := List.replicate 100 true }
    (bbByte t.bb 12, bbByte t.bb 13, bbByte t.bb 14, bbByte t.bb 15, t.result)) =
    (0xF0#8, 0xEC#8, 0x11#8, 0xEC#8, 28#32) := by decide +kernel
theorem test_final_capacity : (after .final { with1M State.reset with bb := List.replicate 129 true }).statusWord = 0x26#32 := by
  decide +kernel
theorem test_blkclr : (after .blkclr (with1M State.reset)).blk = [] := by decide
theorem test_blkadd : (let t := after .blkadd (args 1 26 26 0); (t.blk, t.result)) = ([⟨26, 26⟩], 1#32) := by decide
theorem test_blkadd_resource : (after .blkadd (args 129 1 1 0)).statusWord = 0x46#32 := by decide
theorem test_blksel : (let t := after .blksel (args 5 2 0 0); (t.blk, t.result)) =
    ([⟨33, 15⟩, ⟨33, 15⟩, ⟨34, 16⟩, ⟨34, 16⟩], 4#32) := by decide
theorem test_blksel_domain : (after .blksel (args 41 0 0 0)).statusWord = 0x16#32 := by decide
theorem test_capbits : (after .capbits (with1M State.reset)).result = 128#32 := by decide
theorem test_rsblk : nums (after (.rsblk .p1) (withBB [3, 4, 5] (args 0 3 3 0))).poly.p1 = [210, 109, 189] := by decide +kernel
theorem test_rsblk_domain : (after (.rsblk .p1) (withBB [3, 4, 5] (args 1 3 3 0))).statusWord = 0x16#32 := by decide +kernel
/-- The state of the interleave vector (95 V19). -/
def interleaveState : State := { withBB [1, 2, 3, 4, 5] State.reset with blk := [⟨5, 2⟩, ⟨6, 3⟩] }
theorem test_rsrun : (let t := after .rsrun interleaveState
    (nums ((List.range 11).map t.cwbufByte), t.result)) = ([1, 3, 2, 4, 5, 21, 210, 62, 109, 40, 189], 11#32) := by
  decide +kernel
theorem test_rsrun_sequence : (after .rsrun (with1M State.reset)).statusWord = 0x56#32 := by decide
theorem test_rssyn : (let t := after (.rssyn .p2 .p0) (withP [7, 21, 42, 56] [] (args 3 0 0 0))
    (nums t.poly.p2, t.result)) = ([0, 0, 0], 1#32) := by decide
theorem test_rssyn_resource : (after (.rssyn .p2 .p0) (args 513 0 0 0)).statusWord = 0x46#32 := by decide
theorem test_fmtenc : (after .fmtenc (args 0 0 0 0)).result = 0x77C4#32 := by decide
theorem test_fmtenc_high : (after .fmtenc (args 3 7 0 0)).result = 0x083B#32 := by decide
theorem test_fmtchk : (after .fmtchk (args 0x1689 0 0 0)).result = 0x80034000#32 := by decide
theorem test_fmtchk_wrong : (after .fmtchk (args 0x77C5 0 0 0)).result = 0x00002001#32 := by decide

/-! ## The bus and one step of the machine (95 V9, V25, V26, V28 to V30) -/

theorem test_step_runs_fetched_word : (stepped ((args 3 7 0 0).withFetchWord 32 0x12)).result = 9#32 := by decide
theorem test_step_illegal_word : (stepped (inFlight 0x420#32)).statusWord = 0x36#32 := by decide
theorem test_step_idle : stepped State.reset = State.reset := by decide
theorem test_step_takes_input : (stepped { State.reset with inputs := [.write 0x10#14 5#32, .hardReset] }).arg0 = 5#32 := by
  decide
theorem test_reset_id : (State.reset.hostRead 0#14).rdata = 0x51524531#32 := by decide
theorem test_accept : (State.reset.hostWrite 0xC#14 0x10#32).statusWord = 0x01#32 := by decide
theorem test_busy_write_overruns : ((inFlight 0x10#32).hostWrite 0x10#14 9#32).statusWord = 0x09#32 := by decide
theorem test_inbuf_byte_order : (State.reset.hostWrite 0x1000#14 0x6C6C6548#32).inbufByte 0 = 0x48#8 := by decide
theorem test_bitbuf_word : ((withBB [0x5F, 0xDE, 0xAD, 0xBE, 0xEF] State.reset).hostRead 0x2003#14).rdata = 0xBEADDE5F#32 := by
  decide
theorem test_ack_clears_ie : ({ State.reset with ie := true, done := true }.hostWrite 0x4#14 0x8#32).irq = false := by decide
theorem test_ctrl_soft_reset : (({ args 1 2 3 4 with bb := [true] }).hostWrite 0x4#14 0x5#32).ctrlWord = 0x4#32 := by decide

/-! ## Witnesses: a state and operands that meet the hypotheses of every statement that has some, clause by clause, at
the bounds of their ranges -/

/-- The state with an input waiting and a command in flight whose step is one input away. -/
def waiting (e : Input) : State := { inFlight 0x10#32 with lag := 1, inputs := [e] }

theorem test_witness_DecodeIsInverseOfEncode : decode 0x2726#32 = .ok (.pmul .p3 .p1 .p2) ∧
    encode (.pmul .p3 .p1 .p2) = 0x2726#32 := by decide
theorem test_witness_LegalWordsMatchExactlyOneRow :
    (State.reset.busy = false ∧ State.reset.err = false) ∧
    ((inFlight 0x420#32).busy = true ∧ (inFlight 0x420#32).lag = 0 ∧ decode (inFlight 0x420#32).pending = .error .unusedField) := by
  decide
theorem test_witness_StepRunsThePendingCommand :
    ((inFlight 0x12#32).busy = true ∧ (inFlight 0x12#32).lag = 0 ∧ decode (inFlight 0x12#32).pending = .ok .gmul) ∧
    ({ inFlight 0x12#32 with lag := 1 }.inputs = []) := by decide
theorem test_witness_StepTakesTheNextInputOrIdles :
    ¬ (State.reset.busy = true ∧ (State.reset.lag = 0 ∨ State.reset.inputs = [])) ∧ State.reset.inputs = [] ∧
    ∀ e ∈ [Input.read 0#14, .write 0x3FFF#14 1#32, .hardReset],
      ¬ ((waiting e).busy = true ∧ ((waiting e).lag = 0 ∨ (waiting e).inputs = [])) ∧ (waiting e).inputs = [e] := by decide
theorem test_witness_AcceptedCommandCompletes :
    (waiting (.write 0x4#14 0x2#32)).busy = true ∧
    ∀ e ∈ (waiting (.write 0x4#14 0x2#32)).inputs.take (waiting (.write 0x4#14 0x2#32)).lag, e.isReset = false := by decide
theorem test_witness_CommandWriteIsAcceptedOrDropped :
    (0x000F#14 &&& 0x3FFC#14 = 0x000C#14) ∧ (inFlight 0#32).busy = true ∧
    (State.reset.fail .domain).busy = false ∧ (State.reset.fail .domain).err = true ∧
    State.reset.busy = false ∧ State.reset.err = false := by decide
theorem test_witness_BusyWritesAreDroppedWithOverrun :
    ((inFlight 0#32).busy = true ∧ (0x000E#14 &&& 0x3FFC#14) ∈ [0x000C#14, 0x0010#14, 0x0014#14, 0x0018#14, 0x001C#14] ∧
      0x1000 ≤ (0x1000#14 : Addr).toNat ∧ (0x1FFF#14 : Addr).toNat ≤ 0x1FFF) ∧
    ({ State.reset with ovr := true, inputs := [.write 0x4#14 0x2#32] }.ovr = true ∧
      (stepped { State.reset with ovr := true, inputs := [.write 0x4#14 0x2#32] }).ovr = false) ∧
    (0x0007#14 &&& 0x3FFC#14 = 0x0004#14 ∧ (0x2#32 : Word).getLsbD 1 = true) ∧
    ((0x0020#14 &&& 0x3FFC#14) ∈ [0x0000#14, 0x0008#14, 0x0020#14] ∧ 0x0024 ≤ (0x0024#14 : Addr).toNat ∧
      (0x0FFF#14 : Addr).toNat ≤ 0x0FFF ∧ 0x2000 ≤ (0x2000#14 : Addr).toNat) := by decide
theorem test_witness_BusyWritesAreDroppedWithOverrun_step :
    step { State.reset with ovr := true, inputs := [.write 0x4#14 0x2#32] } =
      .next (stepped { State.reset with ovr := true, inputs := [.write 0x4#14 0x2#32] }) := rfl
theorem test_witness_CtrlWriteActsInOrder :
    (0x0007#14 &&& 0x3FFC#14 = 0x0004#14) ∧ (0x1#32 : Word).getLsbD 0 = true ∧ (0xFFFFFFF1#32 &&& 0xF#32 = 0x1#32 &&& 0xF#32) := by
  decide
theorem test_witness_SoftResetKeepsOnlyTheBuffers :
    (0x0004#14 &&& 0x3FFC#14 = 0x0004#14) ∧ (0x5#32 : Word).getLsbD 0 = true ∧ State.reset.busy = false ∧
    (inFlight 0#32).busy = true := by decide
theorem test_witness_RegisterReadsReturnTheirFields :
    ([0x0000#14, 0x0004#14, 0x0008#14, 0x000C#14, 0x0010#14, 0x0014#14, 0x0018#14, 0x001C#14, 0x0020#14].all
      fun a => (a + 3#14) &&& 0x3FFC#14 == a) = true ∧ State.reset.busy = false ∧
    0x0024 ≤ (0x0024#14 : Addr).toNat ∧ (0x0FFF#14 : Addr).toNat ≤ 0x0FFF := by decide
theorem test_witness_InbufWindowReadsAndWrites :
    0x1000 ≤ (0x1000#14 : Addr).toNat ∧ (0x1FFF#14 : Addr).toNat ≤ 0x1FFF ∧ State.reset.busy = false ∧
    (inFlight 0#32).busy = true := by decide
theorem test_witness_ReadOnlyWindowsShowBitBufferAndCodewords :
    0x2000 ≤ (0x2000#14 : Addr).toNat ∧ (0x2FFF#14 : Addr).toNat ≤ 0x2FFF ∧ 0x3000 ≤ (0x3000#14 : Addr).toNat ∧ State.reset.busy = false ∧ (inFlight 0#32).busy = true := by
  decide
theorem test_witness_ReadsHaveNoSideEffectsAndPlainWritesAreIdempotent :
    State.reset.busy = false ∧ (0x0010#14 &&& 0x3FFC#14 ≠ 0x0004#14) ∧ (0x0010#14 &&& 0x3FFC#14 ≠ 0x000C#14) ∧
    (0x0010#14 : Addr).toNat < 0x1000 ∧ (0x0014#14 &&& 0x3FFC#14 ≠ 0x0010#14) ∧
    (0x0008#14 &&& 0x3FFC#14) ∈ [0x0000#14, 0x0008#14, 0x0020#14] ∧ 0x2000 ≤ (0x2000#14 : Addr).toNat := by decide
theorem test_witness_ReadsHaveNoSideEffectsAndPlainWritesAreIdempotent_window : State.reset.busy = false ∧
    (0x1000#14 &&& 0x3FFC#14 ≠ 0x0004#14) ∧ (0x1FFF#14 &&& 0x3FFC#14 ≠ 0x000C#14) ∧
    0x1000 ≤ (0x1000#14 : Addr).toNat ∧ (0x1FFF#14 : Addr).toNat ≤ 0x1FFF ∧
    ((0x1000#14 : Addr).toNat - 0x1000) / 4 * 4 + 4 ≤ 4 ∧ 4091 < ((0x1FFF#14 : Addr).toNat - 0x1000) / 4 * 4 := by decide
theorem test_witness_ArgumentWritesReadBack :
    (State.reset.fail .domain).busy = false ∧
    ([0x0010#14, 0x0014#14, 0x0018#14, 0x001C#14].all fun a => (a + 1#14) &&& 0x3FFC#14 == a) = true := by decide
theorem test_witness_ReadsWhileBusyAreUnspecifiedOrCurrent :
    (inFlight 0#32).busy = true ∧ (0x0023#14 &&& 0x3FFC#14 = 0x0020#14) ∧ 0x1000 ≤ (0x1000#14 : Addr).toNat ∧
    (0x0FFF#14 : Addr).toNat < 0x1000 ∧ (0x0FFF#14 &&& 0x3FFC#14 ≠ 0x0020#14) ∧ (0x0008#14 &&& 0x3FFC#14 = 0x0008#14) ∧
    0x0024 ≤ (0x0024#14 : Addr).toNat := by decide
theorem test_witness_InterruptFollowsDoneAndEnable :
    exec .glog State.reset = .next (after .glog State.reset) ∧ (0x8#32 : Word).getLsbD 3 = true ∧
    (0x8#32 : Word).getLsbD 2 = false ∧ (0x5#32 : Word).getLsbD 0 = true ∧ State.reset.busy = false ∧
    State.reset.err = false := ⟨after_eq (exec_finish _ _).choose_spec, by decide, by decide, by decide, rfl, rfl⟩
theorem test_witness_ClearErrorReturnsFromAFailure :
    State.reset.err = false ∧ exec .glog State.reset = .next (after .glog State.reset) ∧
    (after .glog State.reset).err = true ∧ (0x2#32 : Word).getLsbD 0 = false ∧ (0x2#32 : Word).getLsbD 1 = true :=
  ⟨rfl, after_eq (exec_finish _ _).choose_spec, by decide, by decide, by decide⟩
theorem test_witness_FailureIsAllOrNothing :
    exec .gexp State.reset = .next (after .gexp State.reset) ∧ (after .gexp State.reset).err = false ∧
    exec .glog State.reset = .next (after .glog State.reset) ∧ (after .glog State.reset).err = true :=
  ⟨after_eq (exec_finish _ _).choose_spec, by decide, after_eq (exec_finish _ _).choose_spec, by decide⟩
theorem test_witness_FailureCodesOfEachCommand :
    State.reset.err = false ∧ exec .glog State.reset = .next (after .glog State.reset) ∧
    (after .glog State.reset).err = true ∧ 1#4 ∈ failureCodes .glog := ⟨rfl, after_eq (exec_finish _ _).choose_spec, by decide, by decide⟩
theorem test_witness_EngineNeverWritesHostRegisters :
    exec .bbbit State.reset = .next (after .bbbit State.reset) ∧ hasResult .bbbit = false := ⟨after_eq (exec_finish _ _).choose_spec, rfl⟩
theorem test_witness_BitBufferIsAppendOnly :
    exec .bbbit (withBB [1] State.reset) = .next (after .bbbit (withBB [1] State.reset)) ∧ 7 < (withBB [1] State.reset).bb.length :=
  ⟨after_eq (exec_finish _ _).choose_spec, by decide⟩

/-- The state of the interleave vector meets the invariant, so the statements about RSRUN and about every step have a
state to speak of. -/
theorem test_witness_invariant : interleaveState.Inv where
  polyBound := by intro k; cases k <;> decide
  bitBound := by decide
  blockShape := by decide
  blockCount := by decide
  dataBound := by decide
  totalBound := by decide
  inbufForm := by decide
  cwbufForm := by decide
  codeRange := by decide
  codeZero := by decide
  busyNoErr := by decide
  busyNoDone := by decide
  epochsOld := by decide
theorem test_witness_EngineWritesOnlyTheNamedState :
    exec .rsrun interleaveState = .next (after .rsrun interleaveState) ∧ interleaveState.Inv ∧
    totalSum interleaveState.blk ≤ 11 ∧ writesPoly .rsrun ≠ some .p0 := ⟨after_eq (exec_finish _ _).choose_spec, test_witness_invariant, by decide, by decide⟩
theorem test_witness_RsrunWritesTheInterleavedStream :
    State.reset.blk = [] ∧ (with1M State.reset).bb.length ≠ 8 * dataSum (with1M State.reset).blk ∧
    (interleaveState.Inv ∧ interleaveState.blk ≠ [] ∧ interleaveState.bb.length = 8 * dataSum interleaveState.blk) :=
  ⟨rfl, by decide, test_witness_invariant, by decide, by decide⟩
theorem test_witness_EveryStepKeepsTheInvariant :
    interleaveState.Inv ∧ step interleaveState = .next (stepped interleaveState) := ⟨test_witness_invariant, rfl⟩

theorem test_witness_NopCompletes : 0x100#32 &&& 0xFF#32 = 0#32 ∧ 0x100#32 ≠ 0#32 := by decide
theorem test_witness_FieldRomsFollowTheirRecurrence : (7 < 8 ∧ 8 ≤ 8 ∧ 255 < 256 ∧ 254 < 255) ∧ (1#8 : Byte) ≠ 0#8 ∧
    expRom 254 = 142#8 := by decide
theorem test_witness_TableProductIsTheFieldProduct : (255#8 : Byte) ≠ 0#8 ∧ gmul 0#8 7#8 = 0#8 := by decide
theorem test_witness_TableProductIsTheFieldProduct_next : (args 255 0 0 0).err = false ∧
    exec .glog (args 255 0 0 0) = .next (after .glog (args 255 0 0 0)) ∧ (after .glog (args 255 0 0 0)).err = false :=
  ⟨rfl, after_eq (exec_finish _ _).choose_spec, by decide⟩
theorem test_witness_GlogReturnsTheLogarithm : (1 ≤ (args 1 0 0 0).arg0.toNat ∧ (args 255 0 0 0).arg0.toNat ≤ 255) ∧
    (args 0 0 0 0).arg0.toNat < 1 ∧ 255 < (args 256 0 0 0).arg0.toNat := by decide
theorem test_witness_GmulReturnsTheFieldProduct : ((args 255 255 0 0).arg0.toNat ≤ 255 ∧ (args 255 255 0 0).arg1.toNat ≤ 255) ∧
    255 < (args 256 0 0 0).arg0.toNat ∧ 255 < (args 0 256 0 0).arg1.toNat := by decide
theorem test_witness_PolynomialRegistersAreLoaded : ((args 255 0 0 0).arg0.toNat ≤ 255 ∧ ((args 255 0 0 0).poly.get .p0).length ≠ 512) ∧
    255 < (args 256 0 0 0).arg0.toNat ∧
    (((args 255 0 0 0).withPoly .p0 (List.replicate 512 0#8)).arg0.toNat ≤ 255 ∧
      (((args 255 0 0 0).withPoly .p0 (List.replicate 512 0#8)).poly.get .p0).length = 512) := by decide +kernel
theorem test_witness_PolynomialRegistersAreRead : ((withP [5] [] (args 0 0 0 0)).arg0.toNat < ((withP [5] [] (args 0 0 0 0)).poly.get .p0).length) ∧
    ((withP [5] [] (args 1 0 0 0)).poly.get .p0).length ≤ (withP [5] [] (args 1 0 0 0)).arg0.toNat := by decide
theorem test_witness_PnormStripsAndShifts :
    (((withP [0, 5] [] (args 511 0 0 0)).poly.get .p0).dropWhile (· == 0#8)).length + (args 511 0 0 0).arg0.toNat ≤ 512 ∧
    512 < (((withP [0, 5] [] (args 512 0 0 0)).poly.get .p0).dropWhile (· == 0#8)).length + (args 512 0 0 0).arg0.toNat := by decide
/-- A state with `n` coefficients in P0 and `m` in P1. -/
def sized (n m : Nat) : State := withP (List.replicate n 1) (List.replicate m 1) State.reset
theorem test_witness_PmulReturnsTheProduct : (State.reset.poly.get .p0 = []) ∧
    ((sized 256 257).poly.get .p0 ≠ [] ∧ (sized 256 257).poly.get .p1 ≠ [] ∧
      ((sized 256 257).poly.get .p0).length + ((sized 256 257).poly.get .p1).length - 1 ≤ 512) ∧
    ((sized 257 257).poly.get .p0 ≠ [] ∧ (sized 257 257).poly.get .p1 ≠ [] ∧
      512 < ((sized 257 257).poly.get .p0).length + ((sized 257 257).poly.get .p1).length - 1) := by decide +kernel
theorem test_witness_PmodReturnsTheRemainder :
    (let s := withP [0, 0, 0] [1, 2, 3, 4] State.reset
     s.poly.get .p1 ≠ [] ∧ (s.poly.get .p1).headD 0#8 ≠ 0#8 ∧ (s.poly.get .p0).length < (s.poly.get .p1).length) ∧
    (let s := withP [7, 0] [1, 2] State.reset
     s.poly.get .p1 ≠ [] ∧ (s.poly.get .p1).headD 0#8 ≠ 0#8 ∧ (s.poly.get .p0).headD 0#8 ≠ 0#8 ∧
     (s.poly.get .p1).length ≤ (s.poly.get .p0).length) := by decide
theorem test_witness_PmodReturnsTheRemainder_rejected : (State.reset.poly.get .p1 = []) ∧
    (let s := withP [1, 2] [0, 1] State.reset; s.poly.get .p1 ≠ [] ∧ (s.poly.get .p1).headD 0#8 = 0#8) ∧
    (let s := withP [0, 0] [1, 2] State.reset
     s.poly.get .p1 ≠ [] ∧ (s.poly.get .p1).length ≤ (s.poly.get .p0).length ∧ (s.poly.get .p0).headD 0#8 = 0#8) := by decide
theorem test_witness_PgenReturnsTheGenerator : (args 511 0 0 0).arg0.toNat + 1 ≤ 512 ∧ 510 < (args 511 0 0 0).arg0.toNat ∧
    1 ≤ (args 68 0 0 0).arg0.toNat ∧ (args 68 0 0 0).arg0.toNat ≤ 68 ∧
    512 < (args 512 0 0 0).arg0.toNat + 1 := by decide
theorem test_witness_PevalReturnsTheValue : (args 255 0 0 0).arg0.toNat ≤ 255 ∧ 255 < (args 256 0 0 0).arg0.toNat := by decide
theorem test_witness_BitBufferCommandsAppend :
    ((args 0 32 0 0).arg1.toNat ≤ 32 ∧ (args 0 32 0 0).bb.length + (args 0 32 0 0).arg1.toNat ≤ 32768) ∧
    32 < (args 0 33 0 0).arg1.toNat ∧ (args 0 33 0 0).bb.length + 1 ≤ 32768 := by decide
theorem test_witness_BitBufferCommandsAppend_full :
    (let s : State := { args 0 1 0 0 with bb := List.replicate 32768 false }
     s.arg1.toNat ≤ 32 ∧ 32768 < s.bb.length + s.arg1.toNat ∧ 32768 < s.bb.length + 1) := by
  simp only [List.length_replicate]; decide
theorem test_witness_BitBufferIsRead : ((withBB [5] (args 7 0 0 0)).arg0.toNat < (withBB [5] (args 7 0 0 0)).bb.length) ∧
    (withBB [5] (args 8 0 0 0)).bb.length ≤ (withBB [5] (args 8 0 0 0)).arg0.toNat := by decide
theorem test_witness_ByteViewIsMostSignificantFirst : 7 < 8 := by decide
theorem test_witness_SegAppendsOneSegment :
    (3 < (args 4 0 0 1).arg0.toNat ∧ (args 0 0 0 0).arg3.toNat < 1 ∧ 40 < (args 0 0 0 41).arg3.toNat ∧
      4096 < (args 0 4095 2 1).arg1.toNat + (args 0 4095 2 1).arg2.toNat ∧
      (args 3 0 3 1).arg0.toNat = 3 ∧ (args 3 0 3 1).arg2.toNat % 2 = 1) ∧
    (let s := withIn [0x41] (args 0 0 1 1)
     s.arg0.toNat ≤ 3 ∧ 1 ≤ s.arg3.toNat ∧ s.arg1.toNat + s.arg2.toNat ≤ 4096 ∧ ¬ (s.arg0.toNat = 3 ∧ s.arg2.toNat % 2 = 1) ∧
     payload 0 ((List.range s.arg2.toNat).map fun k => s.inbufByte (s.arg1.toNat + k)) = none) ∧
    (let s := withIn [0x93, 0x5F] (args 3 0 2 40)
     s.arg0.toNat ≤ 3 ∧ s.arg3.toNat ≤ 40 ∧ ¬ (s.arg0.toNat = 3 ∧ s.arg2.toNat % 2 = 1) ∧
     (payload 3 ((List.range s.arg2.toNat).map fun k => s.inbufByte (s.arg1.toNat + k))).map List.length = some 13 ∧
     s.bb.length + (segment 3 2 40 (bits 0 13)).length ≤ 32768) := by decide +kernel
theorem test_witness_SegAppendsOneSegment_full :
    (let s : State := { args 0 4096 0 1 with bb := List.replicate 32768 false }
     s.arg1.toNat + s.arg2.toNat ≤ 4096 ∧ payload 0 [] = some [] ∧ 32768 < s.bb.length + (segment 0 0 1 []).length) := by
  simp only [List.length_replicate]; decide
theorem test_witness_SegResultCountsItsBits :
    ([args 0 0 0 1, withIn [0x31, 0x32, 0x33, 0x34, 0x35] (args 0 0 5 10), withIn [0x41, 0x42, 0x43] (args 1 0 3 27),
      withIn [0x48] (args 2 0 1 40)].all fun s => !s.err && !(after .seg s).err) = true := by decide +kernel
/-- Kanji data whose pairs lie at the two ends of both ranges, and just outside each end. -/
def kanjiData : List Nat :=
  [0x81, 0x3F, 0x81, 0x40, 0x9F, 0xFC, 0x9F, 0xFD, 0xE0, 0x3F, 0xE0, 0x40, 0xEB, 0xBF, 0xEB, 0xC0]
theorem test_witness_SegResultCountsItsBits_kanji :
    (let s := withIn kanjiData (args 3 0 16 1)
     s.err = false ∧ s.arg0.toNat = 3 ∧ (after .seg s).err = false ∧
     keptPairs ((List.range s.arg2.toNat).map fun k => s.inbufByte (s.arg1.toNat + k)) = 4 ∧
     (after .seg s).result = 64#32) := by decide +kernel
theorem test_witness_SegResultCountsItsBits_next :
    exec .seg (withIn kanjiData (args 3 0 16 1)) = .next (after .seg (withIn kanjiData (args 3 0 16 1))) :=
  after_eq (exec_finish _ _).choose_spec
theorem test_witness_FinalPadsToTheCapacity : State.reset.blk = [] ∧
    (let s : State := { with1M State.reset with bb := List.replicate 129 true }
     s.blk ≠ [] ∧ 8 * dataSum s.blk < s.bb.length) ∧
    (let s : State := { with1M State.reset with bb := List.replicate 128 true }
     s.blk ≠ [] ∧ s.bb.length ≤ 8 * dataSum s.blk) := by decide +kernel
theorem test_witness_FinalPadsToTheCapacity_next :
    exec .final (with1M State.reset) = .next (after .final (with1M State.reset)) := after_eq (exec_finish _ _).choose_spec
theorem test_witness_BlockListCommands :
    (let s := args 128 32 32 0
     ¬ (s.arg0.toNat < 1 ∨ s.arg2.toNat < 1 ∨ s.arg1.toNat < s.arg2.toNat ∨ 255 < s.arg1.toNat) ∧
     ¬ (128 < s.blk.length + s.arg0.toNat ∨ 4096 < dataSum s.blk + s.arg0.toNat * s.arg2.toNat ∨
        4096 < totalSum s.blk + s.arg0.toNat * s.arg1.toNat)) ∧
    (args 0 1 1 0).arg0.toNat < 1 ∧ (args 1 1 0 0).arg2.toNat < 1 ∧ (args 1 1 2 0).arg1.toNat < (args 1 1 2 0).arg2.toNat ∧
    255 < (args 1 256 1 0).arg1.toNat ∧ 128 < (args 129 1 1 0).blk.length + (args 129 1 1 0).arg0.toNat ∧
    4096 < dataSum (args 128 33 33 0).blk + (args 128 33 33 0).arg0.toNat * (args 128 33 33 0).arg2.toNat ∧
    4096 < totalSum (args 128 33 1 0).blk + (args 128 33 1 0).arg0.toNat * (args 128 33 1 0).arg1.toNat := by decide
theorem test_witness_BlkselSelectsALayoutWithinBounds :
    (1 ≤ (args 1 0 0 0).arg0.toNat ∧ (args 40 3 0 0).arg0.toNat ≤ 40 ∧ (args 40 3 0 0).arg1.toNat ≤ 3) ∧
    (args 0 0 0 0).arg0.toNat < 1 ∧ 40 < (args 41 0 0 0).arg0.toNat ∧ 3 < (args 1 4 0 0).arg1.toNat := by decide
theorem test_witness_RsblkStoresTheRemainder :
    (let s := withBB [1, 2] (args 0 2 253 0)
     s.arg1.toNat + s.arg2.toNat ≤ 255 ∧ 8 * (s.arg0.toNat + s.arg1.toNat) ≤ s.bb.length) ∧
    255 < (args 0 2 254 0).arg1.toNat + (args 0 2 254 0).arg2.toNat ∧
    (let s := withBB [1, 2] (args 1 2 0 0); s.bb.length < 8 * (s.arg0.toNat + s.arg1.toNat)) := by decide
theorem test_witness_RssynStoresTheSyndromes : (args 512 0 0 0).arg0.toNat ≤ 512 ∧ 512 < (args 513 0 0 0).arg0.toNat := by decide
theorem test_witness_CodewordHasZeroSyndromes :
    (let s := withBB [7] (args 0 1 3 0)
     let t := after (.rsblk .p1) s
     let u := withP [7, 21, 42, 56] [] (args 3 0 0 0)
     s.err = false ∧ t.err = false ∧ u.arg0 = s.arg2 ∧
     u.poly.get .p0 = (List.range s.arg1.toNat).map (fun k => byteView s.bb (s.arg0.toNat + k)) ++ t.poly.get .p1) := by
  decide +kernel
theorem test_witness_CodewordHasZeroSyndromes_next : exec (.rsblk .p1) (withBB [7] (args 0 1 3 0)) =
    .next (after (.rsblk .p1) (withBB [7] (args 0 1 3 0))) := after_eq (exec_finish _ _).choose_spec
theorem test_witness_EcCodewordsAreLinear : (bytes [0, 1, 2]).length = (bytes [3, 4, 5]).length := by decide
theorem test_witness_FmtencReturnsTheFormatWord : ((args 3 7 0 0).arg0.toNat ≤ 3 ∧ (args 3 7 0 0).arg1.toNat ≤ 7) ∧
    3 < (args 4 0 0 0).arg0.toNat ∧ 7 < (args 0 8 0 0).arg1.toNat := by decide
theorem test_witness_FmtchkReturnsSyndromeAndFields : (args 0x7FFF 0 0 0).arg0.toNat ≤ 0x7FFF ∧ 0x7FFF < (args 0x8000 0 0 0).arg0.toNat := by
  decide
theorem test_witness_FormatWordsDecodeBack : (args 3 7 0 0).arg0.toNat ≤ 3 ∧ (args 3 7 0 0).arg1.toNat ≤ 7 ∧
    (args 0x083B 0 0 0).arg0 = (after .fmtenc (args 3 7 0 0)).result ∧
    exec .fmtenc (args 3 7 0 0) = .next (after .fmtenc (args 3 7 0 0)) := ⟨by decide, by decide, by decide, after_eq (exec_finish _ _).choose_spec⟩

end Sys2Proof.Tests
end

section
/-! The block lists that 10_state.md R47 allows, and the ones BLKADD and BLKSEL make. -/

namespace Sys2Proof.Machine

/-- A block list within the bounds of 10_state.md R47: the part of `State.Inv` that speaks of BLK. -/
structure BlocksBounded (bs : List Block) : Prop where
  shape : ∀ b ∈ bs, 1 ≤ b.data ∧ b.data ≤ b.total ∧ b.total ≤ 255
  count : bs.length ≤ Config.blkMax
  data : sumData bs ≤ Config.bitbufBits / 8
  total : sumTotal bs ≤ Config.cwbufBytes

theorem State.Inv.blocksBounded {s : State} (h : s.Inv) : BlocksBounded s.blk :=
  ⟨h.blockShape, h.blockCount, h.dataBound, h.totalBound⟩

theorem blocksBounded_nil : BlocksBounded [] := ⟨by simp, by simp, by simp [sumData], by simp [sumTotal]⟩

/-- `n` equal blocks more stay within the bounds that BLKADD checks (43_reed_solomon.md R232). -/
theorem BlocksBounded.append_replicate {bs : List Block} (h : BlocksBounded bs) {n : Nat} {b : Block}
    (hb : 1 ≤ b.data ∧ b.data ≤ b.total ∧ b.total ≤ 255) (hn : bs.length + n ≤ Config.blkMax)
    (hd : sumData bs + n * b.data ≤ Config.bitbufBits / 8) (ht : sumTotal bs + n * b.total ≤ Config.cwbufBytes) :
    BlocksBounded (bs ++ List.replicate n b) where
  shape c hc := by
    rcases List.mem_append.1 hc with hc | hc
    · exact h.shape c hc
    · rw [List.eq_of_mem_replicate hc]; exact hb
  count := by simpa using hn
  data := by simpa [sumData] using hd
  total := by simpa [sumTotal] using ht

/-- Every group of `RS_BLOCK_TABLE` has the block shape of 10_state.md R47. -/
theorem rsBlockTable_shape :
    ∀ gs ∈ rsBlockTable, ∀ g ∈ gs, 1 ≤ g.data ∧ g.data ≤ g.total ∧ g.total ≤ 255 := by
  decide +kernel

/-- An expanded block is one of the groups' (10_state.md R53). -/
theorem mem_expand {groups : List Group} {b : Block} (h : b ∈ expand groups) :
    ∃ g ∈ groups, b = { total := g.total, data := g.data } := by
  obtain ⟨g, hg, hb⟩ := List.mem_flatMap.1 h
  exact ⟨g, hg, List.eq_of_mem_replicate hb⟩

/-- The blocks of a table layout have the shape of 10_state.md R47. -/
theorem expand_rsBlockEntry_shape (ver ecl : Nat) :
    ∀ b ∈ expand (rsBlockEntry ver ecl), 1 ≤ b.data ∧ b.data ≤ b.total ∧ b.total ≤ 255 := by
  intro b hb
  obtain ⟨g, hg, rfl⟩ := mem_expand hb
  by_cases hlt : (ver - 1) * 4 + ecl < rsBlockTable.length
  · rw [rsBlockEntry, List.getD_eq_getElem _ _ hlt] at hg
    exact rsBlockTable_shape _ (List.getElem_mem hlt) g hg
  · rw [rsBlockEntry, List.getD_eq_default _ _ (by omega)] at hg
    simp at hg

end Sys2Proof.Machine
end

section
/-! What a command's step can do to the state, said once for all commands: every frame and the invariant follow from
`exec_cases`. -/

namespace Sys2Proof.Machine

open Sys2Proof.Spec

/-- `Effect i s u`: `u` is `s` with effects that the rule of the command `i` allows, before completion. The bounds hold
where `s` meets the invariant. A command without a result leaves RESULT, so there `w` is the old word. -/
inductive Effect (i : Instr) (s : State) : State → Prop
  /-- RESULT alone, or nothing. -/
  | result (w : Word) (hw : hasResult i = false → w = s.result) : Effect i s (s.withResult w)
  /-- The register PD of the command, and RESULT. -/
  | poly (pd : PReg) (c : List Byte) (w : Word) (hpd : writesPoly i = some pd) (hw : hasResult i = false → w = s.result)
      (hc : s.Inv → c.length ≤ Config.polyCap) : Effect i s ((s.withPoly pd c).withResult w)
  /-- BBCLR. -/
  | clearBits (hi : i = .bbclr) : Effect i s (s.withBits [])
  /-- An append to BB, and RESULT. -/
  | append (bits : List Bool) (w : Word) (hi : i = .bbput ∨ i = .bbbit ∨ i = .seg ∨ i = .final)
      (hw : hasResult i = false → w = s.result) (hb : s.Inv → s.bb.length + bits.length ≤ Config.bitbufBits) :
      Effect i s ((s.appendBits bits).withResult w)
  /-- A new block list, and RESULT. -/
  | blocks (bs : List Block) (w : Word) (hi : i = .blkclr ∨ i = .blkadd ∨ i = .blksel)
      (hw : hasResult i = false → w = s.result) (hbs : s.Inv → BlocksBounded bs) :
      Effect i s ((s.withBlocks bs).withResult w)
  /-- RSRUN: a stream of `sum(total)` bytes from CWBUF[0] on, and RESULT. -/
  | codewords (stream : List Byte) (w : Word) (hi : i = .rsrun) (hl : s.Inv → stream.length = sumTotal s.blk) :
      Effect i s ((s.withCodewords stream).withResult w)

/-- `Yields i s o`: the outcome `o` of a step at `s` is a failure that leaves all but STATUS, or the completion of an
effect of `i`. -/
def Yields (i : Instr) (s : State) (o : Host.Outcome State Fault Refusal) : Prop :=
  (∃ k, o = .next (s.fail k)) ∨ ∃ u, Effect i s u ∧ o = .next u.complete

section
variable {i : Instr} {s : State}

theorem Yields.ok {u : State} (h : Effect i s u) : Yields i s (finish s (.ok u)) := .inr ⟨u, h, rfl⟩

theorem Yields.error (k : ErrKind) : Yields i s (finish s (.error k)) := .inl ⟨k, rfl⟩

/-- A check of a command: past it, the check's condition is known to be false. -/
theorem Yields.check {c : Prop} [Decidable c] {k : ErrKind} {r : Except ErrKind State}
    (h : ¬ c → Yields i s (finish s r)) : Yields i s (finish s (if c then .error k else r)) := by
  by_cases hc : c
  · rw [if_pos hc]; exact .error k
  · rw [if_neg hc]; exact h hc

end

/-- The effect of a command that only sets RESULT. -/
theorem Effect.onlyResult {i : Instr} {s : State} (w : Word) (hi : hasResult i = true) : Effect i s (s.withResult w) :=
  .result w fun h => by simp [hi] at h

section
variable (s : State)

theorem execGlog_yields : Yields .glog s (execGlog s) := by
  unfold execGlog
  cases glog s.u0 with
  | ok n => exact .ok (.onlyResult _ rfl)
  | error k => exact .error k

theorem execPpush_yields (pd : PReg) : Yields (.ppush pd) s (execPpush pd s) :=
  .check fun _ => .check fun hfull => .ok <| .poly pd _ s.result rfl (fun _ => rfl) fun hs => by
    rw [List.length_append, List.length_singleton]
    exact lt_of_le_of_ne (hs.polyBound pd) hfull

theorem execPnorm_yields (pd : PReg) : Yields (.pnorm pd) s (execPnorm pd s) :=
  .check fun hfit => .ok <| .poly pd _ _ rfl nofun fun _ => by
    simpa [construct, zeros] using hfit

theorem execPmul_yields (pd pa pb : PReg) : Yields (.pmul pd pa pb) s (execPmul pd pa pb s) :=
  .check fun hfit => .ok <| .poly pd _ _ rfl nofun fun _ => by
    by_cases hempty : (s.polyReg pa).length = 0 ∨ (s.polyReg pb).length = 0
    · rw [polyMul, if_pos hempty]; exact Nat.zero_le _
    · have := polyMul_length_le (s.polyReg pa) (s.polyReg pb)
      omega

theorem execPmod_yields (pd pa pb : PReg) : Yields (.pmod pd pa pb) s (execPmod pd pa pb s) := by
  unfold execPmod
  cases hr : polyMod (s.polyReg pa) (s.polyReg pb) with
  | ok r => exact .ok (.poly pd r _ rfl nofun fun hs => (polyMod_length_le hr).trans (hs.polyBound pa))
  | error k => exact .error k

theorem execPgen_yields (pd : PReg) : Yields (.pgen pd) s (execPgen pd s) :=
  .check fun hfit => .ok <| .poly pd _ s.result rfl (fun _ => rfl) fun _ => by
    rw [(genPoly_shape _).1]; omega

theorem execBbput_yields : Yields .bbput s (execBbput s) :=
  .check fun _ => .check fun hfit => .ok <| .append _ s.result (by simp) (fun _ => rfl) fun _ => by
    rw [bitsOf_length]; omega

theorem execBbbit_yields : Yields .bbbit s (execBbbit s) :=
  .check fun hfit => .ok <| .append _ s.result (by simp) (fun _ => rfl) fun _ => by
    rw [List.length_singleton]; omega

theorem execSeg_yields : Yields .seg s (execSeg s) := by
  refine .check fun _ => .check fun _ => .check fun _ => .check fun _ => ?_
  cases pack s.u0 (s.inbufRange s.u1 s.u2) with
  | error k => exact .error k
  | ok payload => exact .check fun hfit => .ok (.append _ _ (by simp) nofun fun _ => not_lt.1 hfit)

theorem execFinal_yields : Yields .final s (execFinal s) :=
  .check fun _ => .check fun hfit => .ok <| .append _ _ (by simp) nofun fun hs => by
    have hcap : s.capacity ≤ Config.bitbufBits := by
      have := hs.dataBound
      simp only [State.capacity, Config.bitbufBits] at this ⊢
      omega
    rw [finalBits_length (not_lt.1 hfit) (Nat.mul_mod_right 8 _), Nat.add_sub_cancel' (not_lt.1 hfit)]
    exact hcap

theorem execBlkadd_yields : Yields .blkadd s (execBlkadd s) :=
  .check fun hshape => .check fun hcount => .check fun hdata => .check fun htotal => .ok <|
    .blocks _ _ (by simp) nofun fun hs =>
      hs.blocksBounded.append_replicate (by dsimp only; omega) (not_lt.1 hcount) (not_lt.1 hdata) (not_lt.1 htotal)

theorem execBlksel_yields : Yields .blksel s (execBlksel s) :=
  .check fun _ => .check fun _ => .check fun hfit => .ok <| .blocks _ _ (by simp) nofun fun _ =>
    ⟨expand_rsBlockEntry_shape _ _, by omega, by omega, by omega⟩

theorem execRsblk_yields (pd : PReg) : Yields (.rsblk pd) s (execRsblk pd s) := by
  refine .check fun hsize => .check fun _ => ?_
  obtain ⟨ec, hec, hlen⟩ := ecOf_ok (s.bbRange s.u0 s.u1) s.u2
  rw [hec]
  exact .ok (.poly pd ec s.result rfl (fun _ => rfl) fun _ => by simp only [Config.polyCap]; omega)

theorem execRsrun_yields : Yields .rsrun s (execRsrun s) := by
  refine .check fun _ => .check fun _ => ?_
  obtain ⟨es, hes, hsizes⟩ := ecBlocks_ok (sliceBlocks_length s.bb 0 s.blk)
  rw [hes]
  exact .ok (.codewords _ _ rfl fun hs =>
    stream_length (sliceBlocks_sizes s.bb 0 s.blk) hsizes fun b hb => (hs.blockShape b hb).2.1)

theorem execRssyn_yields (pd pa : PReg) : Yields (.rssyn pd pa) s (execRssyn pd pa s) :=
  .check fun hfit => .ok <| .poly pd _ _ rfl nofun fun _ => by
    rw [syndromes_length]; omega

/-- Every command fails, and leaves all but STATUS, or completes one of its effects. -/
theorem exec_yields (i : Instr) : Yields i s (exec i s) := by
  cases i with
  | nop => exact .ok (.result s.result fun _ => rfl)
  | gexp => exact .ok (.onlyResult _ rfl)
  | glog => exact execGlog_yields s
  | gmul => exact .check fun _ => .check fun _ => .ok (.onlyResult _ rfl)
  | pclr pd => exact .ok (.poly pd [] s.result rfl (fun _ => rfl) fun _ => by simp)
  | ppush pd => exact execPpush_yields s pd
  | pnorm pd => exact execPnorm_yields s pd
  | pget pa => exact .check fun _ => .ok (.onlyResult _ rfl)
  | plen pa => exact .ok (.onlyResult _ rfl)
  | pmov pd pa => exact .ok (.poly pd _ s.result rfl (fun _ => rfl) fun hs => hs.polyBound pa)
  | pmul pd pa pb => exact execPmul_yields s pd pa pb
  | pmod pd pa pb => exact execPmod_yields s pd pa pb
  | pgen pd => exact execPgen_yields s pd
  | peval pa => exact .check fun _ => .ok (.onlyResult _ rfl)
  | bbclr => exact .ok (.clearBits rfl)
  | bbput => exact execBbput_yields s
  | bbbit => exact execBbbit_yields s
  | bblen => exact .ok (.onlyResult _ rfl)
  | bbget => exact .check fun _ => .ok (.onlyResult _ rfl)
  | seg => exact execSeg_yields s
  | final => exact execFinal_yields s
  | blkclr => exact .ok (.blocks [] s.result (by simp) (fun _ => rfl) fun _ => blocksBounded_nil)
  | blkadd => exact execBlkadd_yields s
  | blksel => exact execBlksel_yields s
  | capbits => exact .ok (.onlyResult _ rfl)
  | rsblk pd => exact execRsblk_yields s pd
  | rsrun => exact execRsrun_yields s
  | rssyn pd pa => exact execRssyn_yields s pd pa
  | fmtenc => exact .check fun _ => .check fun _ => .ok (.onlyResult _ rfl)
  | fmtchk => exact .check fun _ => .ok (.onlyResult _ rfl)

end

/-- What the engine's step of a command can lead to. -/
theorem exec_cases {i : Instr} {s t : State} (h : exec i s = .next t) :
    (∃ k, t = s.fail k) ∨ ∃ u, Effect i s u ∧ t = u.complete := by
  rcases exec_yields s i with ⟨k, hk⟩ | ⟨u, hu, hk⟩
  · exact .inl ⟨k, Host.Outcome.next.inj (h.symm.trans hk)⟩
  · exact .inr ⟨u, hu, Host.Outcome.next.inj (h.symm.trans hk)⟩

end Sys2Proof.Machine
end

section
/-! A CTRL write in its four actions (10_state.md R35): what is left after SRST, after CLRERR, and at the end. -/

namespace Sys2Proof.Machine

/-- The state after the first action of a CTRL write of `v`, SRST (10_state.md R32). -/
def State.ctrlSoftReset (s : State) (v : Word) : State := if v.getLsbD 0 then s.softReset else s

/-- The state after the second action, CLRERR (10_state.md R33). -/
def State.ctrlClearErr (s : State) (v : Word) : State :=
  if v.getLsbD 1 then (s.ctrlSoftReset v).clearErr else s.ctrlSoftReset v

/-- The third and fourth action write IE and acknowledge DONE (10_state.md R34, R35). -/
theorem writeCtrl_eq (s : State) (v : Word) :
    s.writeCtrl v =
      { s.ctrlClearErr v with
        ie := v.getLsbD 2, done := if v.getLsbD 3 then false else (s.ctrlClearErr v).done } := by
  unfold State.writeCtrl
  dsimp only
  split <;> rfl

/-- Only bits 3:0 of a CTRL write matter (10_state.md R35). -/
theorem writeCtrl_congr (s : State) {v v' : Word} (h : ∀ k, k < 4 → v'.getLsbD k = v.getLsbD k) :
    s.writeCtrl v' = s.writeCtrl v := by
  simp only [State.writeCtrl, h 0 (by decide), h 1 (by decide), h 2 (by decide), h 3 (by decide)]

/-- A soft reset leaves no error, so CLRERR after it changes nothing (70_reset_and_hazards.md R331). -/
theorem softReset_clearErr (s : State) : s.softReset.clearErr = s.softReset := by
  unfold State.softReset
  split <;> rfl

@[simp] theorem softReset_done (s : State) : s.softReset.done = false := by
  unfold State.softReset
  split <;> rfl

/-- With SRST set, CLRERR does not matter (10_state.md R35). -/
theorem ctrlClearErr_of_softReset (s : State) {v : Word} (h : v.getLsbD 0 = true) : s.ctrlClearErr v = s.softReset := by
  simp only [State.ctrlClearErr, State.ctrlSoftReset, h, if_true, softReset_clearErr, ite_self]

end Sys2Proof.Machine
end

section
/-! The invariant, one lemma for each operation on the state, and then for every step. -/

namespace Sys2Proof.Machine

section
variable {s : State}

/-! ### The effects of commands -/

theorem State.Inv.withResult (h : s.Inv) (w : Word) : (s.withResult w).Inv := { h with }

theorem State.Inv.withPoly (h : s.Inv) (pd : PReg) {c : List Byte} (hc : c.length ≤ Config.polyCap) :
    (s.withPoly pd c).Inv :=
  { h with
    polyBound := fun k => by
      by_cases hk : k = pd
      · rw [hk, State.withPoly_poly, PolyFile.get_set_same]; exact hc
      · rw [State.withPoly_poly, PolyFile.get_set_other _ _ hk]; exact h.polyBound k }

theorem State.Inv.withBits (h : s.Inv) {bits : List Bool} (hb : bits.length ≤ Config.bitbufBits) :
    (s.withBits bits).Inv :=
  { h with bitBound := hb }

theorem State.Inv.appendBits (h : s.Inv) {bits : List Bool} (hb : s.bb.length + bits.length ≤ Config.bitbufBits) :
    (s.appendBits bits).Inv :=
  h.withBits (by rw [List.length_append]; exact hb)

theorem State.Inv.withBlocks (h : s.Inv) {bs : List Block} (hbs : BlocksBounded bs) : (s.withBlocks bs).Inv :=
  { h with blockShape := hbs.shape, blockCount := hbs.count, dataBound := hbs.data, totalBound := hbs.total }

theorem State.Inv.withCodewords (h : s.Inv) (stream : List Byte) : (s.withCodewords stream).Inv :=
  { h with
    cwbufForm := Memory.writeBytes_wf _ h.cwbufForm (by
      rw [Nat.zero_add]; exact List.length_take_le _ _)
    epochsOld := by
      rw [State.withCodewords_cwbuf, Memory.writeBytes_epoch]; exact h.epochsOld }

theorem Effect.inv {i : Instr} {u : State} (he : Effect i s u) (h : s.Inv) : u.Inv := by
  cases he with
  | result w => exact h.withResult w
  | poly pd c w _ _ hc => exact (h.withPoly pd (hc h)).withResult w
  | clearBits => exact h.withBits (Nat.zero_le _)
  | append bits w _ _ hb => exact (h.appendBits (hb h)).withResult w
  | blocks bs w _ _ hbs => exact (h.withBlocks (hbs h)).withResult w
  | codewords stream w => exact (h.withCodewords stream).withResult w

/-! ### Completion, failure and its return -/

theorem State.Inv.complete (h : s.Inv) : s.complete.Inv := { h with busyNoErr := nofun, busyNoDone := nofun }

theorem State.Inv.fail (h : s.Inv) (k : ErrKind) : (s.fail k).Inv :=
  { h with
    codeRange := k.code_le
    codeZero := iff_of_false k.code_ne_zero (by simp)
    busyNoErr := nofun
    busyNoDone := nofun }

theorem State.Inv.clearErr (h : s.Inv) : s.clearErr.Inv :=
  { h with codeRange := Nat.zero_le _, codeZero := iff_of_true rfl rfl, busyNoErr := fun _ => rfl }

theorem exec_inv {i : Instr} {t : State} (h : s.Inv) (he : exec i s = .next t) : t.Inv := by
  rcases exec_cases he with ⟨k, rfl⟩ | ⟨u, hu, rfl⟩
  · exact h.fail k
  · exact (hu.inv h).complete

/-! ### Acceptance and the resets -/

theorem epochsOld_succ {a b n : Nat} (h : a < n ∧ b < n) : a < n + 1 ∧ b < n + 1 :=
  h.imp Nat.lt_succ_of_lt Nat.lt_succ_of_lt

theorem State.Inv.accept (h : s.Inv) (w : Word) (he : s.err = false) : (s.accept w).Inv :=
  { h with busyNoErr := fun _ => he, busyNoDone := fun _ => rfl, epochsOld := epochsOld_succ h.epochsOld }

theorem State.Inv.cleared (h : s.Inv) : s.cleared.Inv where
  polyBound k := by simp
  bitBound := by simp
  blockShape := blocksBounded_nil.shape
  blockCount := blocksBounded_nil.count
  dataBound := blocksBounded_nil.data
  totalBound := blocksBounded_nil.total
  inbufForm := h.inbufForm
  cwbufForm := h.cwbufForm
  codeRange := Nat.zero_le _
  codeZero := iff_of_true rfl rfl
  busyNoErr := nofun
  busyNoDone := nofun
  epochsOld := h.epochsOld

theorem State.Inv.softReset (h : s.Inv) : s.softReset.Inv := by
  unfold State.softReset
  split
  · exact { h.cleared with
      cwbufForm := Memory.unwritten_wf _ _
      epochsOld := ⟨Nat.lt_succ_of_lt h.epochsOld.1, Nat.lt_succ_self _⟩ }
  · exact h.cleared

theorem State.Inv.hardReset (h : s.Inv) : s.hardReset.Inv :=
  { h.cleared with
    inbufForm := Memory.unwritten_wf _ _
    cwbufForm := Memory.unwritten_wf _ _
    epochsOld := ⟨Nat.lt_succ_self _, Nat.lt_succ_self _⟩ }

/-! ### Host accesses -/

theorem State.Inv.ctrlSoftReset (h : s.Inv) (v : Word) : (s.ctrlSoftReset v).Inv := by
  unfold State.ctrlSoftReset
  split
  · exact h.softReset
  · exact h

theorem State.Inv.ctrlClearErr (h : s.Inv) (v : Word) : (s.ctrlClearErr v).Inv := by
  unfold State.ctrlClearErr
  split
  · exact (h.ctrlSoftReset v).clearErr
  · exact h.ctrlSoftReset v

theorem State.Inv.writeCtrl (h : s.Inv) (v : Word) : (s.writeCtrl v).Inv := by
  have hc := h.ctrlClearErr v
  rw [writeCtrl_eq]
  exact { hc with
    busyNoDone := fun hb => by
      change (if v.getLsbD 3 then false else _) = false
      rw [hc.busyNoDone hb, ite_self] }

theorem State.Inv.overrun (h : s.Inv) : s.overrun.Inv := { h with }

theorem State.Inv.writeCmd (h : s.Inv) (w : Word) : (s.writeCmd w).Inv := by
  unfold State.writeCmd
  split_ifs with hb he
  · exact h.overrun
  · exact h
  · exact h.accept w (by simpa using he)

theorem State.Inv.withInbufWord (h : s.Inv) {b : Nat} (hb : b + 4 ≤ Config.inbufBytes) (v : Word) :
    (s.withInbufWord b v).Inv :=
  { h with
    inbufForm := Memory.writeBytes_wf _ h.inbufForm hb
    epochsOld := by rw [State.withInbufWord_inbuf, Memory.writeBytes_epoch]; exact h.epochsOld }

theorem State.Inv.hostWrite (h : s.Inv) (addr : Addr) (v : Word) : (s.hostWrite addr v).Inv := by
  unfold State.hostWrite
  rcases writeTarget_cases s (target addr) v with
    ⟨_, hw⟩ | ⟨_, hw⟩ | hw | ⟨_, hw⟩ | ⟨_, a, b, c, d, hw⟩ | ⟨_, b, hb, hw⟩ <;> rw [hw]
  · exact h.writeCtrl v
  · exact h.writeCmd v
  · exact h
  · exact h.overrun
  · exact { h with }
  · exact h.withInbufWord (target_inbuf hb) v

theorem State.Inv.hostRead (h : s.Inv) (addr : Addr) : (s.hostRead addr).Inv := by
  rcases hostRead_cases s addr with ⟨v, _, hr⟩ | ⟨_, hr⟩ <;> rw [hr]
  · exact { h with }
  · exact { h with epochsOld := epochsOld_succ h.epochsOld }

theorem State.Inv.receive (h : s.Inv) (e : Input) : (s.receive e).Inv := by
  cases e with
  | read addr => exact h.hostRead addr
  | write addr v => exact h.hostWrite addr v
  | hardReset => exact h.hardReset

/-- The list of inputs and the latency are free of the invariant. -/
theorem State.Inv.nextInput (h : s.Inv) (rest : List Input) (n : Nat) :
    ({ s with inputs := rest, lag := n } : State).Inv := { h with }

end

/-- Settles O57: each thing a step can do (`step_cases`) keeps the invariant. -/
theorem everyStepKeepsTheInvariant : Obligations.EveryStepKeepsTheInvariant := by
  intro s t hs h
  rcases step_cases h with ⟨_, i, _, he⟩ | ⟨_, _, rfl⟩ | ⟨_, _, rfl⟩ | ⟨_, e, rest, _, rfl⟩
  · exact exec_inv hs he
  · exact hs.fail .illegal
  · exact hs
  · exact (hs.nextInput rest _).receive e

end Sys2Proof.Machine
end

section
/-! The frames of the engine's step: what no command changes, and what only the commands that name it change. -/

namespace Sys2Proof.Machine

open Sys2Proof.Spec

section
variable {i : Instr} {s t u : State}

/-! ### The host's registers and IRQ -/

/-- A command writes nothing but STATUS, RESULT, the polynomial registers, BB, BLK and CWBUF. -/
theorem exec_frame (h : exec i s = .next t) :
    ∃ err code result poly bb blk cwbuf,
      t = { s with
        busy := false, done := true, err := err, errcode := code
        result := result, poly := poly, bb := bb, blk := blk, cwbuf := cwbuf } := by
  rcases exec_cases h with ⟨k, rfl⟩ | ⟨u, hu, rfl⟩
  · exact ⟨_, _, _, _, _, _, _, rfl⟩
  · cases hu <;> exact ⟨_, _, _, _, _, _, _, rfl⟩

theorem Effect.result_eq (hu : Effect i s u) (hi : hasResult i = false) : u.result = s.result := by
  cases hu with
  | result w hw => exact hw hi
  | poly pd c w _ hw _ => exact hw hi
  | clearBits => rfl
  | append bits w _ hw _ => exact hw hi
  | blocks bs w _ hw _ => exact hw hi
  | codewords stream w hrun => subst hrun; exact nomatch hi

theorem exec_result_eq (h : exec i s = .next t) (hi : hasResult i = false) : t.result = s.result := by
  rcases exec_cases h with ⟨k, rfl⟩ | ⟨u, hu, rfl⟩
  · rfl
  · exact hu.result_eq hi

/-- A completion leaves DONE = 1 and IE as it is, so it raises IRQ where IE = 1 (10_state.md R41). -/
theorem exec_irq (h : exec i s = .next t) : t.irq = s.ie := by
  obtain ⟨_, _, _, _, _, _, _, rfl⟩ := exec_frame h
  exact Bool.and_true _

/-- DONEACK and SRST clear DONE and IE <- 0 clears IE, and either takes IRQ to 0 (10_state.md R41). -/
theorem writeCtrl_irq {v : Word} (h : v.getLsbD 3 = true ∨ v.getLsbD 2 = false ∨ v.getLsbD 0 = true) :
    (s.writeCtrl v).irq = false := by
  rw [writeCtrl_eq]
  rcases h with hack | hie | hsrst
  · simp only [State.irq, hack, if_true, Bool.and_false]
  · simp only [State.irq, hie, Bool.false_and]
  · simp only [State.irq, ctrlClearErr_of_softReset s hsrst, softReset_done, ite_self, Bool.and_false]

/-! ### The bit buffer -/

/-- What a command other than BBCLR does to BB: nothing, or an append by one of the four that append. -/
theorem Effect.bb_append (hu : Effect i s u) (hi : i ≠ .bbclr) :
    ∃ bits, u.bb = s.bb ++ bits ∧ (i ≠ .bbput → i ≠ .bbbit → i ≠ .seg → i ≠ .final → bits = []) := by
  cases hu with
  | clearBits hclr => exact absurd hclr hi
  | append bits w happ =>
    refine ⟨bits, rfl, fun h1 h2 h3 h4 => ?_⟩
    simp [h1, h2, h3, h4] at happ
  | _ => exact ⟨[], (List.append_nil _).symm, fun _ _ _ _ => rfl⟩

theorem exec_bb_append (h : exec i s = .next t) (hi : i ≠ .bbclr) :
    ∃ bits, t.bb = s.bb ++ bits ∧ (i ≠ .bbput → i ≠ .bbbit → i ≠ .seg → i ≠ .final → bits = []) := by
  rcases exec_cases h with ⟨k, rfl⟩ | ⟨u, hu, rfl⟩
  · exact ⟨[], (List.append_nil _).symm, fun _ _ _ _ => rfl⟩
  · exact hu.bb_append hi

/-! ### The polynomial registers, the block list and CWBUF -/

theorem Effect.poly_eq (hu : Effect i s u) {k : PReg} (hk : writesPoly i ≠ some k) : u.poly.get k = s.poly.get k := by
  cases hu with
  | poly pd c w hpd => exact PolyFile.get_set_other _ _ fun h => hk (h ▸ hpd)
  | _ => rfl

theorem Effect.blk_eq (hu : Effect i s u) (h1 : i ≠ .blkclr) (h2 : i ≠ .blkadd) (h3 : i ≠ .blksel) : u.blk = s.blk := by
  cases hu with
  | blocks bs w hi => simp [h1, h2, h3] at hi
  | _ => rfl

theorem Effect.cwbuf_eq (hu : Effect i s u) (hi : i ≠ .rsrun) : u.cwbuf = s.cwbuf := by
  cases hu with
  | codewords stream w hrun => exact absurd hrun hi
  | _ => rfl

/-- A byte of CWBUF past the end of the stream is unchanged (43_reed_solomon.md R236). -/
theorem withCodewords_cwbufByte (stream : List Byte) {a : Nat} (ha : stream.length ≤ a) :
    (s.withCodewords stream).cwbufByte a = s.cwbufByte a := by
  have hout : 0 + (stream.take Config.cwbufBytes).length ≤ a := by
    rw [Nat.zero_add]; exact (List.length_take_le' _ _).trans ha
  rw [State.cwbufByte, State.withCodewords_cwbuf, Memory.writeBytes_epoch,
    Memory.read?_writeBytes_outside _ _ _ (.inr hout)]
  rfl

/-- Every command leaves CWBUF from `sum(total)` on (10_state.md R47, R49). -/
theorem Effect.cwbufByte_eq (hu : Effect i s u) (hs : s.Inv) {a : Nat} (ha : sumTotal s.blk ≤ a) :
    u.cwbufByte a = s.cwbufByte a := by
  cases hu with
  | codewords stream w _ hl => exact withCodewords_cwbufByte stream ((hl hs).trans_le ha)
  | _ => rfl

end

/-- Settles O24: the frame of every command, and RESULT where it has none. -/
theorem engineNeverWritesHostRegisters : Obligations.EngineNeverWritesHostRegisters := by
  intro i s t h
  have hresult := exec_result_eq h
  obtain ⟨_, _, _, _, _, _, _, rfl⟩ := exec_frame h
  exact ⟨rfl, rfl, rfl, rfl, rfl, rfl, rfl, rfl, fun _ => rfl, rfl, rfl, rfl, rfl, hresult⟩

/-- Settles O20: the completions by `exec_irq`, the CTRL writes by `writeCtrl_irq`; an acceptance and a reset clear
DONE. -/
theorem interruptFollowsDoneAndEnable : Obligations.InterruptFollowsDoneAndEnable := by
  refine ⟨fun _ => rfl, rfl, fun _ _ _ => exec_irq, fun _ => rfl, fun s v h => ?_, fun s w hb he => ?_⟩
  · rw [hostWrite_ctrl s (by decide)]
    exact writeCtrl_irq h
  · rw [hostWrite_cmd s (by decide), State.writeCmd, hb, he]
    exact Bool.and_false _

/-- Settles O25: BBCLR by its definition, all other commands by `exec_bb_append`. -/
theorem bitBufferIsAppendOnly : Obligations.BitBufferIsAppendOnly := by
  intro i s t h
  refine ⟨fun hi => ?_, fun hi => ?_, fun hi h1 h2 h3 h4 => ?_⟩
  · subst hi
    cases h
    rfl
  · obtain ⟨bits, hbb, -⟩ := exec_bb_append h hi
    rw [hbb, List.length_append]
    exact ⟨fun k hk => List.getElem?_append_left hk, Nat.le_add_right _ _⟩
  · obtain ⟨bits, hbb, hbits⟩ := exec_bb_append h hi
    rw [hbb, hbits h1 h2 h3 h4, List.append_nil]

/-- Settles O26: a failure leaves all three, and an effect changes only what its command names. -/
theorem engineWritesOnlyTheNamedState : Obligations.EngineWritesOnlyTheNamedState := by
  intro i s t h
  rcases exec_cases h with ⟨k, rfl⟩ | ⟨u, hu, rfl⟩
  · exact ⟨fun _ _ => rfl, fun _ _ _ => rfl, fun _ _ => rfl, fun _ _ _ _ => rfl⟩
  · refine ⟨fun k hk => hu.poly_eq hk, hu.blk_eq, fun hi a => ?_, fun _ hs a ha => hu.cwbufByte_eq hs ha⟩
    simp only [State.cwbufByte, State.complete_cwbuf, hu.cwbuf_eq hi]

end Sys2Proof.Machine
end

section
/-! The register region: reads of each register, CTRL writes and ARG writes. -/

namespace Sys2Proof.Machine

/-! ### Reads -/

/-- The word a read gives the host, where the spec names one. -/
theorem hostRead_rdata {s : State} {addr : Addr} {v : Word} (h : s.readTarget (target addr) = some v) :
    (s.hostRead addr).rdata = v := by
  rw [State.hostRead, h]

/-- A read at the word `a` gives what a read of the target of `a` gives. -/
theorem hostRead_aligned {s : State} {addr a : Addr} {v : Word} (h : addr &&& 0x3FFC#14 = a)
    (hv : s.readTarget (target a) = some v) : (s.hostRead addr).rdata = v :=
  hostRead_rdata (by rw [target_of_aligned h]; exact hv)

/-- The CTRL word is IE in bit 2 (10_state.md R35). -/
theorem ctrlWord_eq (s : State) : s.ctrlWord = if s.ie then 0x4#32 else 0x0#32 := by
  unfold State.ctrlWord
  cases s.ie <;> rfl

theorem ctrlWord_toNat (s : State) : s.ctrlWord.toNat = 4 * s.ie.toNat := by
  rw [ctrlWord_eq]
  cases s.ie <;> rfl

/-- A flag below a field doubles the field. -/
theorem toNat_append_ofBool {n : Nat} (x : BitVec n) (b : Bool) : (x ++ BitVec.ofBool b).toNat = x.toNat * 2 + b.toNat :=
  BitVec.toNat_concat x b

/-- The STATUS word has its fields at their places (10_state.md R36). -/
theorem statusWord_toNat (s : State) :
    s.statusWord.toNat =
      s.busy.toNat + 2 * s.done.toNat + 4 * s.err.toNat + 8 * s.ovr.toNat + 16 * s.errcode.toNat := by
  have hcode : (0#24 ++ s.errcode).toNat = s.errcode.toNat := by
    rw [BitVec.toNat_append, BitVec.toNat_zero, Nat.zero_shiftLeft, Nat.zero_or]
  simp only [State.statusWord, toNat_append_ofBool, hcode]
  omega

/-- Settles O13: the target of each register word, and its lemma on the word read. -/
theorem registerReadsReturnTheirFields : Obligations.RegisterReadsReturnTheirFields := by
  intro s addr
  refine ⟨fun h => hostRead_aligned h rfl, fun h => ?_, fun h => ?_, fun h => hostRead_aligned h rfl,
    fun h => hostRead_aligned h rfl, fun h => hostRead_aligned h rfl, fun h => hostRead_aligned h rfl,
    fun h => hostRead_aligned h rfl, fun h hidle => hostRead_aligned h (if_neg (by simp [hidle])),
    fun h1 h2 => hostRead_rdata (by rw [target_reserved h1 h2]; rfl)⟩
  · rw [hostRead_aligned (s := s) h rfl, ctrlWord_toNat]
  · rw [hostRead_aligned (s := s) h rfl, statusWord_toNat]

/-! ### CTRL writes -/

/-- Two words with the same bits 3:0 agree on each of them. -/
theorem getLsbD_eq_of_low {v v' : Word} (h : v' &&& 0xF#32 = v &&& 0xF#32) {k : Nat} (hk : k < 4) :
    v'.getLsbD k = v.getLsbD k := by
  have hbit := congrArg (fun w : Word => w.getLsbD k) h
  have hmask : (0xF#32).getLsbD k = true := by interval_cases k <;> rfl
  simpa only [BitVec.getLsbD_and, hmask, Bool.and_true] using hbit

/-- With SRST set, CLRERR has no further effect (10_state.md R35). -/
theorem writeCtrl_clearErr_of_softReset (s : State) {v : Word} (h : v.getLsbD 0 = true) :
    s.writeCtrl (v ||| 0x2#32) = s.writeCtrl v := by
  have hbit (k : Nat) (hk : (0x2#32).getLsbD k = false) : (v ||| 0x2#32).getLsbD k = v.getLsbD k := by
    rw [BitVec.getLsbD_or, hk, Bool.or_false]
  rw [writeCtrl_eq, writeCtrl_eq, ctrlClearErr_of_softReset s h,
    ctrlClearErr_of_softReset s ((hbit 0 rfl).trans h), hbit 2 rfl, hbit 3 rfl]

/-- Settles O10: the order by `writeCtrl_eq`, and which bits matter by the two lemmas on equal CTRL writes. -/
theorem ctrlWriteActsInOrder : Obligations.CtrlWriteActsInOrder := by
  intro s addr v haddr
  simp only [hostWrite_ctrl s haddr]
  refine ⟨?_, writeCtrl_clearErr_of_softReset s, fun v' h => writeCtrl_congr s fun k => getLsbD_eq_of_low h, ?_⟩
  · rw [writeCtrl_eq]
    rfl
  · rw [hostRead_aligned (s := s) haddr rfl, ctrlWord_eq]

/-! ### ARG writes -/

/-- Settles O18: the write at each of the four words, then the read of the register written. -/
theorem argumentWritesReadBack : Obligations.ArgumentWritesReadBack := by
  intro s addr v hidle
  have hwrite {a : Addr} (h : addr &&& 0x3FFC#14 = a) : s.hostWrite addr v = s.writeTarget (target a) v := by
    rw [State.hostWrite, target_of_aligned h]
  have hb : ¬ s.busy = true := by simp [hidle]
  have h0 (h : addr &&& 0x3FFC#14 = 0x0010#14) : s.hostWrite addr v = { s with arg0 := v } :=
    (hwrite h).trans (if_neg hb)
  have h1 (h : addr &&& 0x3FFC#14 = 0x0014#14) : s.hostWrite addr v = { s with arg1 := v } :=
    (hwrite h).trans (if_neg hb)
  have h2 (h : addr &&& 0x3FFC#14 = 0x0018#14) : s.hostWrite addr v = { s with arg2 := v } :=
    (hwrite h).trans (if_neg hb)
  have h3 (h : addr &&& 0x3FFC#14 = 0x001C#14) : s.hostWrite addr v = { s with arg3 := v } :=
    (hwrite h).trans (if_neg hb)
  refine ⟨h0, h1, h2, h3, fun h => ?_⟩
  simp only [List.mem_cons, List.not_mem_nil, or_false] at h
  rcases h with h | h | h | h
  · rw [h0 h]; exact hostRead_aligned h rfl
  · rw [h1 h]; exact hostRead_aligned h rfl
  · rw [h2 h]; exact hostRead_aligned h rfl
  · rw [h3 h]; exact hostRead_aligned h rfl

end Sys2Proof.Machine
end

section
/-! The byte view of BB, and the field ROMs. -/

namespace Sys2Proof.Machine

/-- The number with the bits `f 0`, `f 1`, ... `f (n-1)`, the first of them the most significant. -/
def msbFirst (f : Nat → Bool) (n : Nat) : Nat := ((List.range n).map fun k => (f k).toNat * 2 ^ (n - 1 - k)).sum

/-- One bit more is appended at the low end. -/
theorem msbFirst_succ (f : Nat → Bool) (n : Nat) : msbFirst f (n + 1) = 2 * msbFirst f n + (f n).toNat := by
  have hshift : ∀ k ∈ List.range n, (f k).toNat * 2 ^ (n + 1 - 1 - k) = 2 * ((f k).toNat * 2 ^ (n - 1 - k)) := by
    intro k hk
    have hk := List.mem_range.1 hk
    rw [show n + 1 - 1 - k = (n - 1 - k) + 1 by omega, pow_succ]
    ring
  rw [msbFirst, List.range_succ, List.map_append, List.sum_append, List.map_congr_left hshift, List.sum_map_mul_left]
  simp [msbFirst]

/-- Bit `k` in reading order is bit `n-1-k` of the number. -/
theorem msbFirst_testBit (f : Nat → Bool) {n k : Nat} (h : k < n) : (msbFirst f n).testBit (n - 1 - k) = f k := by
  induction n with
  | zero => omega
  | succ n ih =>
    rw [msbFirst_succ]
    rcases Nat.lt_succ_iff_lt_or_eq.1 h with hk | rfl
    · rw [show n + 1 - 1 - k = (n - 1 - k) + 1 by omega, Nat.testBit_succ, ← ih hk]
      congr 1
      have := (f n).toNat_lt
      omega
    · cases f k <;> simp [Nat.testBit_zero]

/-- Settles O42: BBBYTE is the number of its eight bits, the first of them the most significant. -/
theorem byteViewIsMostSignificantFirst : Obligations.ByteViewIsMostSignificantFirst := by
  intro bb j k hk
  have hbyte : bbByte bb j = BitVec.ofNat 8 (msbFirst (fun k => bitAt bb (8 * j + k)) 8) := rfl
  have hlt : 7 - k < 8 := by omega
  rw [hbyte, BitVec.getLsbD_ofNat, decide_eq_true hlt, Bool.true_and]
  exact msbFirst_testBit _ hk

/-- The recurrence of EXP (10_state.md R50). -/
theorem expRom_recurrence {i : Nat} (h8 : 8 ≤ i) (h : i < 256) :
    expRom i = expRom (i - 4) ^^^ expRom (i - 5) ^^^ expRom (i - 6) ^^^ expRom (i - 8) := by
  have hall : ∀ j : Fin 256, 8 ≤ j.val →
      expRom j.val = expRom (j.val - 4) ^^^ expRom (j.val - 5) ^^^ expRom (j.val - 6) ^^^ expRom (j.val - 8) := by
    decide +kernel
  exact hall ⟨i, h⟩ h8

/-- The first eight powers of `x` need no reduction (10_state.md R50). -/
theorem expRom_toNat {i : Nat} (h : i < 8) : (expRom i).toNat = 2 ^ i := by
  interval_cases i <;> rfl

/-- Settles O27: a nonzero byte stands in EXP at its logarithm, and nowhere else since LOG undoes EXP. -/
theorem fieldRomsFollowTheirRecurrence : Obligations.FieldRomsFollowTheirRecurrence := by
  refine ⟨fun i => expRom_toNat, fun i => expRom_recurrence, rfl, rfl, fun a ha => ?_, fun i => logRom_expRom, rfl⟩
  refine ⟨logRom a, logRom_lt ha, expRom_logRom ha, fun j hj hja => ?_⟩
  rw [← hja, logRom_expRom hj]

end Sys2Proof.Machine
end

section
/-! Each step and each command answers a next state, and the inputs are taken in their order. -/

namespace Sys2Proof.Machine

/-- A command ends through `finish`, which answers (60_exceptions.md R304). -/
theorem exec_answers (i : Instr) (s : State) : ∃ t, exec i s = .next t := by
  obtain ⟨r, hr⟩ := exec_finish i s
  rcases finish_cases s r with ⟨t, -, ht⟩ | ⟨k, -, hk⟩
  · exact ⟨_, hr.trans ht⟩
  · exact ⟨_, hr.trans hk⟩

theorem runPending_answers (s : State) : ∃ t, s.runPending = .next t := by
  unfold State.runPending
  cases decode s.pending with
  | ok i => exact exec_answers i s
  | error e => exact ⟨_, rfl⟩

/-- An idle QRE with no input does nothing (60_exceptions.md R315). -/
theorem step_of_no_input {s : State} (ht : s.engineTurn = false) (hi : s.inputs = []) : step s = .next s := by
  simp [step, State.advance, ht, hi]

theorem step_answers (s : State) : ∃ t, step s = .next t := by
  cases ht : s.engineTurn with
  | true =>
    rw [step, State.advance, if_pos ht]
    exact runPending_answers s
  | false =>
    cases hi : s.inputs with
    | nil => exact ⟨_, step_of_no_input ht hi⟩
    | cons e rest => exact ⟨_, step_of_input ht hi⟩

theorem engineTurn_iff (s : State) : s.engineTurn = true ↔ s.busy = true ∧ (s.lag = 0 ∨ s.inputs = []) := by
  simp [State.engineTurn]

/-- Settles O7: a command answers by `exec_answers`, and every other kind of step is a next state by definition. -/
theorem stepAlwaysAnswersANextState : Obligations.StepAlwaysAnswersANextState :=
  ⟨step_answers, exec_answers⟩

/-- Settles O5: an empty queue and each kind of input, off the engine's turn. -/
theorem stepTakesTheNextInputOrIdles : Obligations.StepTakesTheNextInputOrIdles := by
  intro s hturn
  have ht : s.engineTurn = false := Bool.eq_false_iff.2 fun h => hturn ((engineTurn_iff s).1 h)
  exact ⟨step_of_no_input ht, fun _ _ => step_of_input ht, fun _ _ _ => step_of_input ht, fun _ => step_of_input ht⟩

end Sys2Proof.Machine
end

section
/-! Host reads: the words of bytes that the three windows show, and what a read leaves unchanged. -/

namespace Sys2Proof.Machine

open Sys2Proof.Spec

/-! ### Words of bytes, and the byte view -/

theorem toNat_append_byte {n : Nat} (x : BitVec n) (b : Byte) : (x ++ b).toNat = 2 ^ 8 * x.toNat + b.toNat := by
  rw [BitVec.toNat_append, ← Nat.shiftLeft_add_eq_or_of_lt b.isLt, Nat.shiftLeft_eq, Nat.mul_comm]

/-- The bytes of a word, the lowest first (20_memory.md R87). -/
theorem wordOfBytes_toNat (b0 b1 b2 b3 : Byte) :
    (wordOfBytes b0 b1 b2 b3).toNat = b0.toNat + 2 ^ 8 * b1.toNat + 2 ^ 16 * b2.toNat + 2 ^ 24 * b3.toNat := by
  simp only [wordOfBytes, toNat_append_byte]
  omega

/-- Byte `k` of a word holds its bits `8k .. 8k+7` (20_memory.md R87). -/
theorem bytesOfWord_toNat (v : Word) {k : Nat} (h : k < (bytesOfWord v).length) :
    (bytesOfWord v)[k].toNat = v.toNat / 2 ^ (8 * k) % 2 ^ 8 := by
  have hk : k < 4 := h
  interval_cases k <;> simp [bytesOfWord, Nat.shiftRight_eq_div_pow]

/-- The bits read one after the other make the number that the first bit leads. -/
theorem foldl_bits_eq_msbFirst (f : Nat → Bool) (n : Nat) :
    (List.range n).foldl (fun acc k => 2 * acc + if f k then 1 else 0) 0 = msbFirst f n := by
  induction n with
  | zero => rfl
  | succ n ih =>
    rw [List.range_succ, List.foldl_append, ih, msbFirst_succ, List.foldl_cons, List.foldl_nil]
    cases f n <;> rfl

theorem bbByte_eq_byteView (bb : List Bool) (j : Nat) : bbByte bb j = byteView bb j :=
  congrArg (BitVec.ofNat 8) (foldl_bits_eq_msbFirst (fun k => bitAt bb (8 * j + k)) 8).symm

/-! ### Reads -/

/-- From 0x1000 on an offset names a word of one of the three windows (20_memory.md R81). -/
theorem target_window {addr : Addr} (h : 0x1000 ≤ addr.toNat) :
    ∃ b, target addr = .inbuf b ∨ target addr = .bitbuf b ∨ target addr = .cwbuf b := by
  rcases Nat.lt_or_ge addr.toNat 0x2000 with h2 | h2
  · exact ⟨_, .inl (target_inbuf_window h (by omega))⟩
  rcases Nat.lt_or_ge addr.toNat 0x3000 with h3 | h3
  · exact ⟨_, .inr (.inl (target_bitbuf_window h2 (by omega)))⟩
  · exact ⟨_, .inr (.inr (target_cwbuf_window h3))⟩

/-- While BUSY = 1 a read of a window gives a fresh free value (20_memory.md R83 to R85, 70_reset_and_hazards.md R341). -/
theorem hostRead_window_busy {s : State} (hbusy : s.busy = true) {addr : Addr} (h : 0x1000 ≤ addr.toNat) :
    s.hostRead addr = { s with rdata := Config.unspecRead s.free, free := s.free + 1 } := by
  have hnone : s.readTarget (target addr) = none := by
    obtain ⟨b, hb | hb | hb⟩ := target_window h <;> rw [hb] <;> exact if_pos hbusy
  rw [State.hostRead, hnone]

/-- While BUSY = 0 every read returns a word that the spec names (20_memory.md R83 to R85). -/
theorem readTarget_idle {s : State} (hidle : s.busy = false) (t : Target) : ∃ v, s.readTarget t = some v := by
  have hb : ¬ s.busy = true := by simp [hidle]
  cases t with
  | result | inbuf | bitbuf | cwbuf => exact ⟨_, if_neg hb⟩
  | _ => exact ⟨_, rfl⟩

theorem hostRead_idle {s : State} (hidle : s.busy = false) (addr : Addr) :
    ∃ v, s.readTarget (target addr) = some v ∧ s.hostRead addr = { s with rdata := v } := by
  obtain ⟨v, hv⟩ := readTarget_idle hidle (target addr)
  exact ⟨v, hv, by rw [State.hostRead, hv]⟩

/-- What a read returns does not depend on what an earlier read left on the bus. -/
theorem readTarget_rdata (s : State) (v : Word) (t : Target) : ({ s with rdata := v } : State).readTarget t = s.readTarget t := by
  cases t <;> rfl

/-- A read repeated while idle returns the same word (20_memory.md R90). -/
theorem hostRead_idempotent {s : State} (hidle : s.busy = false) (addr : Addr) :
    (s.hostRead addr).hostRead addr = s.hostRead addr := by
  obtain ⟨v, hv, hread⟩ := hostRead_idle hidle addr
  rw [hread, State.hostRead, readTarget_rdata, hv]

theorem readTarget_inbuf_idle {s : State} (hidle : s.busy = false) (b : Nat) :
    s.readTarget (.inbuf b) =
      some (wordOfBytes (s.inbufByte b) (s.inbufByte (b + 1)) (s.inbufByte (b + 2)) (s.inbufByte (b + 3))) :=
  if_neg (by simp [hidle])

theorem readTarget_bitbuf_idle {s : State} (hidle : s.busy = false) (j : Nat) :
    s.readTarget (.bitbuf j) =
      some (wordOfBytes (byteView s.bb j) (byteView s.bb (j + 1)) (byteView s.bb (j + 2)) (byteView s.bb (j + 3))) := by
  simp only [← bbByte_eq_byteView]
  exact if_neg (by simp [hidle])

theorem readTarget_cwbuf_idle {s : State} (hidle : s.busy = false) (c : Nat) :
    s.readTarget (.cwbuf c) =
      some (wordOfBytes (s.cwbufByte c) (s.cwbufByte (c + 1)) (s.cwbufByte (c + 2)) (s.cwbufByte (c + 3))) :=
  if_neg (by simp [hidle])

end Sys2Proof.Machine
end

section
/-! Host writes: the INBUF window, the offsets that ignore writes, and what a plain write leaves unchanged. -/

namespace Sys2Proof.Machine

/-! ### INBUF words -/

/-- Byte `k` of a written word stands at `INBUF[b+k]` (20_memory.md R83). -/
theorem withInbufWord_inbufByte (s : State) (b : Nat) (v : Word) {k : Nat} (h : k < 4) :
    ((s.withInbufWord b v).inbufByte (b + k)).toNat = v.toNat / 2 ^ (8 * k) % 2 ^ 8 := by
  have hk : k < (bytesOfWord v).length := h
  rw [State.inbufByte, State.withInbufWord_inbuf, Memory.read?_writeBytes_inside _ _ _ hk, Option.getD_some,
    bytesOfWord_toNat v hk]

/-- A byte outside the written word is unchanged (20_memory.md R83). -/
theorem withInbufWord_inbufByte_outside (s : State) {a b : Nat} (v : Word) (h : a < b ∨ b + 4 ≤ a) :
    (s.withInbufWord b v).inbufByte a = s.inbufByte a := by
  rw [State.inbufByte, State.withInbufWord_inbuf, Memory.writeBytes_epoch, Memory.read?_writeBytes_outside _ _ _ h]
  rfl

/-- A write below a written range may come before it or after it. -/
theorem Memory.writeBytes_write_comm (m : Memory) {a c : Nat} (v : Byte) (vs : List Byte) (h : a < c) :
    (m.writeBytes c vs).write a v = (m.write a v).writeBytes c vs := by
  induction vs generalizing m c with
  | nil => rfl
  | cons w ws ih =>
    have hswap : (m.write c w).write a v = (m.write a v).write c w :=
      congrArg (fun cells => ({ m with cells := cells } : Memory)) (insertCell_comm a c v w h m.cells).symm
    rw [Memory.writeBytes, Memory.writeBytes, ih _ (by omega), hswap]

theorem Memory.write_idempotent (m : Memory) (a : Nat) (v : Byte) : (m.write a v).write a v = m.write a v :=
  congrArg (fun cells => ({ m with cells := cells } : Memory)) (insertCell_same a v m.cells)

theorem Memory.writeBytes_idempotent (m : Memory) (a : Nat) (vs : List Byte) :
    (m.writeBytes a vs).writeBytes a vs = m.writeBytes a vs := by
  induction vs generalizing m a with
  | nil => rfl
  | cons v vs ih =>
    simp only [Memory.writeBytes]
    rw [Memory.writeBytes_write_comm _ _ _ (Nat.lt_succ_self a), Memory.write_idempotent, ih]

theorem withInbufWord_idempotent (s : State) (b : Nat) (v : Word) :
    (s.withInbufWord b v).withInbufWord b v = s.withInbufWord b v :=
  congrArg (fun m => ({ s with inbuf := m } : State)) (s.inbuf.writeBytes_idempotent b (bytesOfWord v))

theorem hostWrite_inbuf_idle {s : State} (hidle : s.busy = false) {addr : Addr} {b : Nat} (h : target addr = .inbuf b)
    (v : Word) : s.hostWrite addr v = s.withInbufWord b v := by
  rw [State.hostWrite, h]
  exact if_neg (by simp [hidle])

theorem hostWrite_inbuf_busy {s : State} (hbusy : s.busy = true) {addr : Addr} {b : Nat} (h : target addr = .inbuf b)
    (v : Word) : s.hostWrite addr v = s.overrun := by
  rw [State.hostWrite, h]
  exact if_pos hbusy

/-- The word just written to INBUF reads back (20_memory.md R83, R87). -/
theorem readTarget_withInbufWord {s : State} (hidle : s.busy = false) (b : Nat) (v : Word) :
    (s.withInbufWord b v).readTarget (.inbuf b) = some v := by
  have h0 := withInbufWord_inbufByte s b v (k := 0) (by decide)
  have h1 := withInbufWord_inbufByte s b v (k := 1) (by decide)
  have h2 := withInbufWord_inbufByte s b v (k := 2) (by decide)
  have h3 := withInbufWord_inbufByte s b v (k := 3) (by decide)
  rw [Nat.add_zero] at h0
  rw [readTarget_inbuf_idle (s := s.withInbufWord b v) hidle]
  refine congrArg some (BitVec.eq_of_toNat_eq ?_)
  rw [wordOfBytes_toNat, h0, h1, h2, h3]
  omega

/-! ### Offsets that ignore writes -/

/-- A write to ID, STATUS, RESULT, a reserved offset, BITBUF or CWBUF does nothing (20_memory.md R84, R85, R90,
60_exceptions.md R302). -/
theorem hostWrite_readOnly (s : State) {addr : Addr} (v : Word)
    (h : (addr &&& 0x3FFC#14) ∈ [0x0000#14, 0x0008#14, 0x0020#14] ∨ (0x0024 ≤ addr.toNat ∧ addr.toNat ≤ 0x0FFF) ∨
      0x2000 ≤ addr.toNat) : s.hostWrite addr v = s := by
  unfold State.hostWrite
  rcases h with hreg | ⟨h1, h2⟩ | hwin
  · simp only [List.mem_cons, List.not_mem_nil, or_false] at hreg
    rcases hreg with h | h | h <;> rw [target_of_aligned h] <;> rfl
  · rw [target_reserved h1 h2]
    rfl
  · rcases Nat.lt_or_ge addr.toNat 0x3000 with h3 | h3
    · rw [target_bitbuf_window hwin (by omega)]
      rfl
    · rw [target_cwbuf_window h3]
      rfl

/-! ### Plain writes -/

/-- A write that is dropped with an overrun while BUSY = 1 and does `f` otherwise (60_exceptions.md R302): each arm of
`State.writeTarget` for an ARG register or INBUF is one. -/
def State.unlessBusy (f : State → State) (s : State) : State := if s.busy then s.overrun else f s

theorem unlessBusy_idempotent {f : State → State} {s : State} (hbusy : (f s).busy = s.busy) (hf : f (f s) = f s) :
    State.unlessBusy f (State.unlessBusy f s) = State.unlessBusy f s := by
  cases hb : s.busy with
  | true =>
    rw [show State.unlessBusy f s = s.overrun from if_pos hb]
    exact if_pos hb
  | false =>
    have hidle : ¬ s.busy = true := by simp [hb]
    rw [show State.unlessBusy f s = f s from if_neg hidle]
    exact (if_neg (hbusy ▸ hidle)).trans hf

/-- Elsewhere than at CTRL and CMD, writing twice is writing once (20_memory.md R90). -/
theorem writeTarget_idempotent (s : State) {t : Target} (hctrl : t ≠ .ctrl) (hcmd : t ≠ .cmd) (v : Word) :
    (s.writeTarget t v).writeTarget t v = s.writeTarget t v := by
  cases t with
  | ctrl => exact absurd rfl hctrl
  | cmd => exact absurd rfl hcmd
  | arg0 => exact unlessBusy_idempotent (f := fun s => { s with arg0 := v }) rfl rfl
  | arg1 => exact unlessBusy_idempotent (f := fun s => { s with arg1 := v }) rfl rfl
  | arg2 => exact unlessBusy_idempotent (f := fun s => { s with arg2 := v }) rfl rfl
  | arg3 => exact unlessBusy_idempotent (f := fun s => { s with arg3 := v }) rfl rfl
  | inbuf b => exact unlessBusy_idempotent (f := fun s => s.withInbufWord b v) rfl (withInbufWord_idempotent s b v)
  | _ => rfl

/-- INBUF after a write of `v` at a target while idle (20_memory.md R83). -/
def State.inbufAfter (s : State) (t : Target) (v : Word) : Memory :=
  match t with
  | .inbuf b => s.inbuf.writeBytes b (bytesOfWord v)
  | _ => s.inbuf

theorem inbufAfter_of_ne (s : State) {t : Target} (h : ∀ b, t ≠ .inbuf b) (v : Word) : s.inbufAfter t v = s.inbuf := by
  cases t with
  | inbuf b => exact absurd rfl (h b)
  | _ => rfl

/-- All that a write elsewhere than at CTRL and CMD does while idle (20_memory.md R90). -/
theorem writeTarget_idle {s : State} (hidle : s.busy = false) {t : Target} (hctrl : t ≠ .ctrl) (hcmd : t ≠ .cmd)
    (v : Word) :
    s.writeTarget t v =
      { s with
        arg0 := if t = .arg0 then v else s.arg0, arg1 := if t = .arg1 then v else s.arg1
        arg2 := if t = .arg2 then v else s.arg2, arg3 := if t = .arg3 then v else s.arg3
        inbuf := s.inbufAfter t v } := by
  have hb : ¬ s.busy = true := by simp [hidle]
  cases t with
  | ctrl => exact absurd rfl hctrl
  | cmd => exact absurd rfl hcmd
  | arg0 | arg1 | arg2 | arg3 | inbuf => exact if_neg hb
  | _ => rfl

/-- The word offset of a target; the reserved words have none of their own (10_state.md R30, 20_memory.md R81). -/
def Target.offset : Target → Nat
  | .id => 0x000
  | .ctrl => 0x004
  | .status => 0x008
  | .cmd => 0x00C
  | .arg0 => 0x010
  | .arg1 => 0x014
  | .arg2 => 0x018
  | .arg3 => 0x01C
  | .result => 0x020
  | .reserved => 0
  | .inbuf b => 0x1000 + b
  | .bitbuf j => 0x2000 + j
  | .cwbuf c => 0x3000 + c

theorem registerAt_offset {a : Nat} (h : registerAt a ≠ .reserved) : (registerAt a).offset = a := by
  unfold registerAt at h ⊢
  split at h
  case h_10 => exact absurd rfl h
  all_goals rfl

/-- Only the offsets of its word reach a target that is not reserved (10_state.md R30, 20_memory.md R81). -/
theorem target_offset {addr : Addr} (h : target addr ≠ .reserved) :
    (target addr).offset = (addr &&& 0x3FFC#14).toNat := by
  unfold target at h ⊢
  dsimp only at h ⊢
  split_ifs at h ⊢ with h1 h2 h3
  · exact registerAt_offset h
  · exact Nat.add_sub_cancel' (not_lt.1 h1)
  · exact Nat.add_sub_cancel' (not_lt.1 h2)
  · exact Nat.add_sub_cancel' (not_lt.1 h3)

/-- A register is not the target of an offset in another word. -/
theorem target_ne {addr : Addr} {t : Target} (ht : t ≠ .reserved) (h : addr &&& 0x3FFC#14 ≠ BitVec.ofNat 14 t.offset) :
    target addr ≠ t := by
  rintro rfl
  rw [target_offset ht, BitVec.ofNat_toNat, BitVec.setWidth_eq] at h
  exact h rfl

theorem target_ne_inbuf {addr : Addr} (h : addr.toNat < 0x1000 ∨ 0x2000 ≤ addr.toNat) (b : Nat) :
    target addr ≠ .inbuf b := by
  intro hb
  have hoff : 0x1000 + b = (addr &&& 0x3FFC#14).toNat := by
    rw [← target_offset (by rw [hb]; nofun), hb]
    rfl
  have := target_inbuf hb
  have := aligned_toNat addr
  omega

end Sys2Proof.Machine
end

section
/-! The bus as the host sees it: alignment, the three windows, and accesses without side effects. -/

namespace Sys2Proof.Machine

/-- Settles O16: reads and writes know an offset only by its target, which ignores bits 1:0 (`target_aligned`). -/
theorem alignmentBitsAreIgnored : Obligations.AlignmentBitsAreIgnored := by
  intro s addr v
  simp only [State.hostRead, State.hostWrite, target_aligned, and_self]

/-- Settles O14: the window's target is the word `b`; then the rules of INBUF words. -/
theorem inbufWindowReadsAndWrites : Obligations.InbufWindowReadsAndWrites := by
  intro s addr v h1 h2
  have htarget := target_inbuf_window h1 h2
  refine ⟨fun hidle => ?_, fun hidle => ?_, fun hbusy => hostWrite_inbuf_busy hbusy htarget v,
    fun hbusy => by rw [hostRead_window_busy hbusy h1]⟩
  · rw [hostRead_rdata (by rw [htarget]; exact readTarget_inbuf_idle hidle _), wordOfBytes_toNat]
  · rw [hostWrite_inbuf_idle hidle htarget]
    exact ⟨fun k hk => withInbufWord_inbufByte s _ v hk, fun a => withInbufWord_inbufByte_outside s v, rfl,
      hostRead_rdata (by rw [htarget]; exact readTarget_withInbufWord hidle _ v)⟩

/-- Settles O15: the targets of the two windows, and the word that a read of each returns. -/
theorem readOnlyWindowsShowBitBufferAndCodewords : Obligations.ReadOnlyWindowsShowBitBufferAndCodewords := by
  intro s addr v h
  refine ⟨fun hidle hbit => ?_, fun hidle hcw => ?_, fun hbusy => by rw [hostRead_window_busy hbusy (by omega)],
    hostWrite_readOnly s v (.inr (.inr h))⟩
  · rw [hostRead_rdata (by rw [target_bitbuf_window h hbit]; exact readTarget_bitbuf_idle hidle _), wordOfBytes_toNat]
  · rw [hostRead_rdata (by rw [target_cwbuf_window hcw]; exact readTarget_cwbuf_idle hidle _), wordOfBytes_toNat]

/-- A read changes only the model's own fields (20_memory.md R90). -/
theorem hostRead_frame (s : State) (addr : Addr) :
    ∃ r f, s.hostRead addr = { s with rdata := r, free := f } ∧ (s.busy = false → f = s.free) := by
  rcases hostRead_cases s addr with ⟨v, -, hread⟩ | ⟨hnone, hread⟩
  · exact ⟨v, s.free, hread, fun _ => rfl⟩
  · refine ⟨_, _, hread, fun hidle => ?_⟩
    obtain ⟨v, hv⟩ := readTarget_idle hidle (target addr)
    exact absurd (hnone.symm.trans hv) nofun

/-- Settles O17: `hostRead_frame` and `hostRead_idempotent` for reads; a write is one at its target. -/
theorem readsHaveNoSideEffectsAndPlainWritesAreIdempotent :
    Obligations.ReadsHaveNoSideEffectsAndPlainWritesAreIdempotent := by
  refine ⟨hostRead_frame, fun s addr hidle => hostRead_idempotent hidle addr, fun s addr v hne4 hneC => ?_⟩
  have hctrl : target addr ≠ .ctrl := target_ne nofun hne4
  have hcmd : target addr ≠ .cmd := target_ne nofun hneC
  refine ⟨writeTarget_idempotent s hctrl hcmd v, fun hidle => ?_, hostWrite_readOnly s v⟩
  refine ⟨_, _, _, _, _, writeTarget_idle hidle hctrl hcmd v, fun h => inbufAfter_of_ne s (target_ne_inbuf h) v,
    fun h1 h2 => ?_, fun h => if_neg (target_ne (t := .arg0) nofun h), fun h => if_neg (target_ne (t := .arg1) nofun h),
    fun h => if_neg (target_ne (t := .arg2) nofun h), fun h => if_neg (target_ne (t := .arg3) nofun h)⟩
  have htarget := target_inbuf_window h1 h2
  refine ⟨htarget, fun a ha => ?_⟩
  rw [hostWrite_inbuf_idle hidle htarget, withInbufWord_inbufByte_outside s v ha]

end Sys2Proof.Machine
end

section
/-! Command words: their fields, the arms of the decoder, and the rows of the opcode map. -/

namespace Sys2Proof

/-! ### The fields of a word -/

@[simp] theorem PReg.ofBits_bits (r : PReg) : PReg.ofBits r.bits = r := by cases r <;> rfl

@[simp] theorem PReg.bits_ofBits (b : BitVec 2) : (PReg.ofBits b).bits = b := by decide +revert

section
variable (opc : BitVec 8) (pd pa pb : BitVec 2)

/-- Where each bit of an assembled word comes from (30_encoding.md R110). -/
theorem assemble_getLsbD (k : Nat) :
    (assemble opc pd pa pb).getLsbD k =
      if k < 8 then opc.getLsbD k else if k < 10 then pd.getLsbD (k - 8)
      else if k < 12 then pa.getLsbD (k - 10) else pb.getLsbD (k - 12) := by
  simp only [assemble, BitVec.getLsbD_or, BitVec.getLsbD_shiftLeft, BitVec.getLsbD_setWidth]
  grind

@[simp] theorem fieldOPC_assemble : fieldOPC (assemble opc pd pa pb) = opc := by
  ext k hk
  rw [fieldOPC, BitVec.getElem_extractLsb', assemble_getLsbD]
  grind

@[simp] theorem fieldPD_assemble : fieldPD (assemble opc pd pa pb) = pd := by
  ext k hk
  rw [fieldPD, BitVec.getElem_extractLsb', assemble_getLsbD]
  grind

@[simp] theorem fieldPA_assemble : fieldPA (assemble opc pd pa pb) = pa := by
  ext k hk
  rw [fieldPA, BitVec.getElem_extractLsb', assemble_getLsbD]
  grind

@[simp] theorem fieldPB_assemble : fieldPB (assemble opc pd pa pb) = pb := by
  ext k hk
  rw [fieldPB, BitVec.getElem_extractLsb', assemble_getLsbD]
  grind

@[simp] theorem fieldRSV_assemble : fieldRSV (assemble opc pd pa pb) = 0#18 := by
  ext k hk
  rw [fieldRSV, BitVec.getElem_extractLsb', assemble_getLsbD]
  grind

end

/-- A word whose reserved bits are 0 is assembled from its fields (30_encoding.md R110). -/
theorem assemble_fields {w : Word} (h : fieldRSV w = 0#18) :
    assemble (fieldOPC w) (fieldPD w) (fieldPA w) (fieldPB w) = w := by
  apply BitVec.eq_of_getLsbD_eq
  intro k hk
  have hrsv : 14 ≤ k → w.getLsbD k = false := fun h14 => by
    simpa [fieldRSV, h14, show k - 14 < 18 by omega] using congrArg (·.getLsbD (k - 14)) h
  simp only [assemble_getLsbD, fieldOPC, fieldPD, fieldPA, fieldPB, BitVec.getLsbD_extractLsb']
  grind

/-! ### Encoding, then decoding -/

theorem onlyFields_eq_ok {w : Word} {pd pa pb : Bool} {i j : Instr} :
    onlyFields w pd pa pb i = .ok j ↔
      i = j ∧ fieldRSV w = 0#18 ∧ (pd = false → fieldPD w = 0#2) ∧ (pa = false → fieldPA w = 0#2) ∧
        (pb = false → fieldPB w = 0#2) := by
  unfold onlyFields
  simp only [Bool.or_eq_true, Bool.and_eq_true, Bool.not_eq_true', bne_iff_ne]
  split_ifs with hrsv hused
  · simp [hrsv]
  · simp only [false_iff]
    tauto
  · simp only [Except.ok.injEq]
    tauto

theorem decode_encode (i : Instr) : decode (encode i) = .ok i := by
  cases i <;> simp [encode, decode, onlyFields_eq_ok]

/-! ### Decoding, then encoding -/

/-- A word that an arm of the decoder accepts is assembled from its opcode and the fields that the arm uses. -/
theorem eq_assemble_of_onlyFields {w : Word} {n : Nat} {pd pa pb : Bool} {i j : Instr}
    (hopc : (fieldOPC w).toNat = n) (h : onlyFields w pd pa pb i = .ok j) :
    i = j ∧ w = assemble (BitVec.ofNat 8 n) (bif pd then fieldPD w else 0#2) (bif pa then fieldPA w else 0#2)
      (bif pb then fieldPB w else 0#2) := by
  obtain ⟨hij, hrsv, hpd, hpa, hpb⟩ := onlyFields_eq_ok.1 h
  have hfield {used : Bool} {b : BitVec 2} (hb : used = false → b = 0#2) : (bif used then b else 0#2) = b := by
    cases used with
    | true => rfl
    | false => exact (hb rfl).symm
  rw [hfield hpd, hfield hpa, hfield hpb, ← hopc, BitVec.ofNat_toNat, BitVec.setWidth_eq, assemble_fields hrsv]
  exact ⟨hij, rfl⟩

theorem encode_of_decode {w : Word} {i : Instr} (h : decode w = .ok i) : w = encode i := by
  unfold decode at h
  dsimp only at h
  split at h
  case h_31 => cases h
  all_goals
    rename_i hopc
    obtain ⟨rfl, hw⟩ := eq_assemble_of_onlyFields hopc h
    simpa only [encode, PReg.bits_ofBits, cond_true, cond_false] using hw

/-- Settles O1: each arm of the decoder reads back what `encode` assembles (`decode_encode`), and accepts no other word
(`encode_of_decode`). -/
theorem decodeIsInverseOfEncode : Obligations.DecodeIsInverseOfEncode :=
  fun i _ => ⟨encode_of_decode, fun h => h ▸ decode_encode i⟩

/-! ### The opcode map -/

/-- The row's command uses PD: the mask leaves the field out (30_encoding.md R112). -/
def OpcodeRow.usesPD (r : OpcodeRow) : Bool := fieldPD r.mask == 0#2

/-- The row's command uses PA. -/
def OpcodeRow.usesPA (r : OpcodeRow) : Bool := fieldPA r.mask == 0#2

/-- The row's command uses PB. -/
def OpcodeRow.usesPB (r : OpcodeRow) : Bool := fieldPB r.mask == 0#2

/-- Every row of the opcode map is an arm of the decoder, with the fields that the row uses (30_encoding.md R117). -/
theorem decode_of_row {r : OpcodeRow} (hr : r ∈ opcodeRows) {w : Word} (hopc : fieldOPC w = fieldOPC r.pattern) :
    ∃ i, decode w = onlyFields w r.usesPD r.usesPA r.usesPB i := by
  unfold decode
  rw [hopc]
  clear hopc
  revert r
  simp only [opcodeRows, opcodeRowsField, opcodeRowsPoly, opcodeRowsPack, opcodeRowsRS, opcodeRowsFmt, List.cons_append,
    List.nil_append, List.forall_mem_cons, List.not_mem_nil, IsEmpty.forall_iff, implies_true, and_true]
  and_intros <;> exact ⟨_, rfl⟩

/-- A row's mask covers OPC and RSV, and its pattern is an opcode (30_encoding.md R112, R117). -/
theorem opcodeRows_fixed : ∀ r ∈ opcodeRows,
    r.pattern = assemble (fieldOPC r.pattern) 0#2 0#2 0#2 ∧ fieldOPC r.mask = BitVec.allOnes 8 ∧
    fieldRSV r.mask = BitVec.allOnes 18 := by
  decide

/-- A row's mask covers every register field that its command does not use (30_encoding.md R112, R117). -/
theorem opcodeRows_unused : ∀ r ∈ opcodeRows,
    (r.usesPD = false → fieldPD r.mask = BitVec.allOnes 2) ∧ (r.usesPA = false → fieldPA r.mask = BitVec.allOnes 2) ∧
    (r.usesPB = false → fieldPB r.mask = BitVec.allOnes 2) := by
  decide

/-- A field that the mask covers is equal in a word and in the pattern it matches. -/
theorem extractLsb'_of_and_eq {w m p : Word} (h : w &&& m = p) {start len : Nat}
    (hm : m.extractLsb' start len = BitVec.allOnes len) : w.extractLsb' start len = p.extractLsb' start len := by
  rw [← h, BitVec.extractLsb'_and, hm, BitVec.and_allOnes]

/-- A word that a row accepts is legal. -/
theorem decode_of_accepts {r : OpcodeRow} (hr : r ∈ opcodeRows) {w : Word} (h : r.accepts w = true) :
    ∃ i, decode w = .ok i := by
  have hand : w &&& r.mask = r.pattern := eq_of_beq h
  obtain ⟨hpattern, hopc, hrsv⟩ := opcodeRows_fixed r hr
  obtain ⟨hpd, hpa, hpb⟩ := opcodeRows_unused r hr
  obtain ⟨i, hi⟩ := decode_of_row hr (extractLsb'_of_and_eq hand hopc)
  rw [hpattern] at hand
  exact ⟨i, hi.trans (onlyFields_eq_ok.2 ⟨rfl, (extractLsb'_of_and_eq hand hrsv).trans (fieldRSV_assemble ..),
    fun hu => (extractLsb'_of_and_eq hand (hpd hu)).trans (fieldPD_assemble ..),
    fun hu => (extractLsb'_of_and_eq hand (hpa hu)).trans (fieldPA_assemble ..),
    fun hu => (extractLsb'_of_and_eq hand (hpb hu)).trans (fieldPB_assemble ..)⟩)⟩

/-- A row's mask is OPC, some register fields and RSV, the parts that the three checks of R112 look at. -/
theorem opcodeRows_mask : ∀ r ∈ opcodeRows,
    r.mask = 0xFF#32 ||| r.mask &&& 0x3F00#32 ||| 0xFFFFC000#32 ∧ r.pattern &&& 0xFF#32 = r.pattern := by
  decide

/-- A well-formed word is accepted by the row of its opcode: the three checks add up to the row's comparison. -/
theorem accepts_of_wellFormed {w : Word} (h : CommandWord.wellFormed w = true) :
    ∃ r ∈ opcodeRows, r.accepts w = true := by
  simp only [CommandWord.wellFormed, CommandWord.opcodeListed, CommandWord.reservedZero, CommandWord.unusedZero,
    Bool.and_eq_true, List.any_eq_true, List.all_eq_true, Bool.or_eq_true, bne_iff_ne, beq_iff_eq] at h
  obtain ⟨⟨⟨r, hr, hopc⟩, hrsv⟩, hunused⟩ := h
  have hfields : w &&& r.mask &&& 0x3F00#32 = 0#32 := (hunused r hr).resolve_left (not_not_intro hopc)
  obtain ⟨hmask, hpattern⟩ := opcodeRows_mask r hr
  refine ⟨r, hr, beq_iff_eq.2 ?_⟩
  calc w &&& r.mask = w &&& (0xFF#32 ||| r.mask &&& 0x3F00#32 ||| 0xFFFFC000#32) := by rw [← hmask]
    _ = w &&& 0xFF#32 ||| w &&& r.mask &&& 0x3F00#32 ||| w &&& 0xFFFFC000#32 := by
      rw [BitVec.and_or_distrib_left, BitVec.and_or_distrib_left, BitVec.and_assoc]
    _ = r.pattern := by rw [hopc, hfields, hrsv, BitVec.or_zero, BitVec.or_zero, hpattern]

open Laws in
/-- The word of every command is legal, and one row accepts it: the lemmas of `RowEncoding`, one per constructor. -/
theorem rowEncoding (i : Instr) : RowEncoding.Statement i := by
  cases i with
  | nop => exact RowEncoding.nop
  | gexp => exact RowEncoding.gexp
  | glog => exact RowEncoding.glog
  | gmul => exact RowEncoding.gmul
  | pclr pd => exact RowEncoding.pclr pd
  | ppush pd => exact RowEncoding.ppush pd
  | pnorm pd => exact RowEncoding.pnorm pd
  | pget pa => exact RowEncoding.pget pa
  | plen pa => exact RowEncoding.plen pa
  | pmov pd pa => exact RowEncoding.pmov pd pa
  | pmul pd pa pb => exact RowEncoding.pmul pd pa pb
  | pmod pd pa pb => exact RowEncoding.pmod pd pa pb
  | pgen pd => exact RowEncoding.pgen pd
  | peval pa => exact RowEncoding.peval pa
  | bbclr => exact RowEncoding.bbclr
  | bbput => exact RowEncoding.bbput
  | bbbit => exact RowEncoding.bbbit
  | bblen => exact RowEncoding.bblen
  | bbget => exact RowEncoding.bbget
  | seg => exact RowEncoding.seg
  | final => exact RowEncoding.final
  | blkclr => exact RowEncoding.blkclr
  | blkadd => exact RowEncoding.blkadd
  | blksel => exact RowEncoding.blksel
  | capbits => exact RowEncoding.capbits
  | rsblk pd => exact RowEncoding.rsblk pd
  | rsrun => exact RowEncoding.rsrun
  | rssyn pd pa => exact RowEncoding.rssyn pd pa
  | fmtenc => exact RowEncoding.fmtenc
  | fmtchk => exact RowEncoding.fmtchk

/-- A legal word is a command's word, so `rowEncoding` holds of it. -/
theorem rowEncoding_of_decode {w : Word} (h : ∃ i, decode w = .ok i) :
    CommandWord.wellFormed w = true ∧ (opcodeRows.filter (·.accepts w)).length = 1 := by
  obtain ⟨i, hi⟩ := h
  rw [encode_of_decode hi]
  exact rowEncoding i

theorem decode_iff_oneRow (w : Word) :
    (∃ i, decode w = .ok i) ↔ (opcodeRows.filter (·.accepts w)).length = 1 := by
  refine ⟨fun h => (rowEncoding_of_decode h).2, fun h => ?_⟩
  obtain ⟨r, hr⟩ := List.exists_mem_of_length_pos (h ▸ Nat.one_pos)
  obtain ⟨hmem, haccepts⟩ := List.mem_filter.1 hr
  exact decode_of_accepts hmem haccepts

theorem decode_iff_wellFormed (w : Word) : (∃ i, decode w = .ok i) ↔ CommandWord.wellFormed w = true := by
  refine ⟨fun h => (rowEncoding_of_decode h).1, fun h => ?_⟩
  obtain ⟨r, hr, haccepts⟩ := accepts_of_wellFormed h
  exact decode_of_accepts hr haccepts

end Sys2Proof
end

section
/-! Command words at CMD and at the engine's step. -/

namespace Sys2Proof.Machine

open Sys2Proof.Spec

/-- While idle and without error a host write of CMD is an acceptance, whatever the word (60_exceptions.md R301). -/
theorem hostWrite_cmd_accept {s : State} (hidle : s.busy = false) (herr : s.err = false) (w : Word) :
    s.hostWrite 0x000C#14 w = s.accept w := by
  rw [hostWrite_cmd s (by decide), State.writeCmd, hidle, herr]
  rfl

/-- On the engine's turn an illegal word fails with ILLEGAL (30_encoding.md R118, 60_exceptions.md R304). -/
theorem step_of_illegal {s : State} (ht : s.engineTurn = true) (hd : ¬ ∃ i, decode s.pending = .ok i) :
    step s = .next (s.fail .illegal) := by
  obtain ⟨t, h⟩ := step_answers s
  rcases step_cases h with ⟨_, i, hi, _⟩ | ⟨_, _, rfl⟩ | ⟨hf, _⟩ | ⟨hf, _⟩
  · exact absurd ⟨i, hi⟩ hd
  · exact h
  · exact absurd (ht.symm.trans hf) nofun
  · exact absurd (ht.symm.trans hf) nofun

/-- Settles O2: legality by `decode_iff_oneRow` and `decode_iff_wellFormed`, then acceptance and the failing step. -/
theorem legalWordsMatchExactlyOneRow : Obligations.LegalWordsMatchExactlyOneRow := by
  intro w
  refine ⟨decode_iff_oneRow w, decode_iff_wellFormed w, fun s hidle herr => ?_, fun s hbusy hturn hw hillegal => ?_⟩
  · rw [hostWrite_cmd_accept hidle herr]
    exact ⟨rfl, rfl⟩
  · subst hw
    exact step_of_illegal ((engineTurn_iff s).2 ⟨hbusy, hturn⟩) hillegal

/-- Settles O3: each word is decoded. -/
theorem specWordsDecodeToTheirCommands : Obligations.SpecWordsDecodeToTheirCommands := by
  unfold Obligations.SpecWordsDecodeToTheirCommands
  decide

end Sys2Proof.Machine
end

section
/-! The field product against the carry-less product of GF(2)[x], which shares no table with it (40_galois_field.md
R144). Both are linear over XOR in each factor, so it is enough that they agree on the eight powers of two. -/

namespace Sys2Proof.Machine

open Sys2Proof.Spec

/-! ### Induction over XOR -/

/-- One bit more of a word is one more power of two. -/
theorem setWidth_succ_eq_xor {w : Nat} (b : BitVec w) (n : Nat) :
    (b.setWidth (n + 1)).setWidth w =
      (b.setWidth n).setWidth w ^^^ (if b.getLsbD n then BitVec.twoPow w n else 0#w) := by
  ext k hk
  simp only [BitVec.getElem_xor, BitVec.getElem_setWidth, BitVec.getLsbD_setWidth]
  rcases Nat.lt_trichotomy k n with hlt | rfl | hgt
  · split_ifs <;> simp [hlt, hlt.ne, Nat.lt_succ_of_lt hlt]
  · cases hbit : b.getLsbD k <;> simp
  · split_ifs <;> simp [hgt.not_gt, hgt.ne', Nat.not_le_of_lt hgt]

/-- Every word is an XOR of powers of two. -/
theorem word_xor_induction {w : Nat} {P : BitVec w → Prop} (zero : P 0#w) (twoPow : ∀ k, k < w → P (BitVec.twoPow w k))
    (xor : ∀ a b, P a → P b → P (a ^^^ b)) (b : BitVec w) : P b := by
  have hlow : ∀ n, n ≤ w → P ((b.setWidth n).setWidth w) := by
    intro n
    induction n with
    | zero =>
      intro _
      have hnil : (b.setWidth 0).setWidth w = 0#w := by ext k hk; simp
      rwa [hnil]
    | succ n ih =>
      intro hn
      rw [setWidth_succ_eq_xor]
      refine xor _ _ (ih (by omega)) ?_
      split_ifs
      · exact twoPow n hn
      · exact zero
  simpa using hlow w le_rfl

/-! ### Linearity -/

@[simp] theorem carryless_zero_left (b : Nat) : carryless 0 b = 0 := by simp [carryless]

@[simp] theorem carryless_zero_right (a : Nat) : carryless a 0 = 0 := rfl

@[simp] theorem reduce_zero : reduce 0 = 0 := rfl

/-- Two words that each take in `m` under a condition, added: the sum takes it in when exactly one did. -/
theorem ite_xor_ite (c d : Bool) (x y m : Nat) :
    (if (c ^^ d) = true then x ^^^ y ^^^ m else x ^^^ y) =
      (if c = true then x ^^^ m else x) ^^^ (if d = true then y ^^^ m else y) := by
  match c, d with
  | false, false => rfl
  | false, true => exact Nat.xor_assoc x y m
  | true, false => exact Nat.xor_right_comm x y m
  | true, true =>
    have hcancel : x ^^^ m ^^^ (y ^^^ m) = x ^^^ y := by
      rw [Nat.xor_comm y m, ← Nat.xor_assoc, Nat.xor_xor_cancel_right]
    exact hcancel.symm

theorem carryless_xor_left (a a' b : Nat) : carryless (a ^^^ a') b = carryless a b ^^^ carryless a' b := by
  refine List.foldl_hom₂ _ (· ^^^ ·) _ _ _ 0 0 fun x y k => ?_
  cases b.testBit k
  · rfl
  · simp only [if_true, Nat.shiftLeft_xor_distrib]
    ac_rfl

theorem carryless_xor_right (a b b' : Nat) : carryless a (b ^^^ b') = carryless a b ^^^ carryless a b' := by
  refine List.foldl_hom₂ _ (· ^^^ ·) _ _ _ 0 0 fun x y k => ?_
  rw [Nat.testBit_xor, ite_xor_ite]

theorem reduce_xor (x y : Nat) : reduce (x ^^^ y) = reduce x ^^^ reduce y := by
  refine List.foldl_hom₂ _ (· ^^^ ·) _ _ _ x y fun x y k => ?_
  rw [Nat.testBit_xor, ite_xor_ite]

/-! ### The table product is the field product -/

/-- The table product and the reduced carry-less product agree on the powers of two. -/
theorem gmul_twoPow_toNat {i j : Nat} (hi : i < 8) (hj : j < 8) :
    (gmul (BitVec.twoPow 8 i) (BitVec.twoPow 8 j)).toNat =
      reduce (carryless (BitVec.twoPow 8 i).toNat (BitVec.twoPow 8 j).toNat) := by
  have hall : ∀ i j : Fin 8, (gmul (BitVec.twoPow 8 i.val) (BitVec.twoPow 8 j.val)).toNat =
      reduce (carryless (BitVec.twoPow 8 i.val).toNat (BitVec.twoPow 8 j.val).toNat) := by decide +kernel
  exact hall ⟨i, hi⟩ ⟨j, hj⟩

/-- The table product as a number is the carry-less product, reduced: an induction over XOR in each factor. -/
theorem gmul_toNat (a b : Byte) : (gmul a b).toNat = reduce (carryless a.toNat b.toNat) := by
  induction a using word_xor_induction with
  | zero => simp
  | xor a a' iha iha' =>
    rw [gmul_xor_left, BitVec.toNat_xor, BitVec.toNat_xor, carryless_xor_left, reduce_xor, iha, iha']
  | twoPow i hi =>
    induction b using word_xor_induction with
    | zero => simp
    | xor b b' ihb ihb' =>
      rw [gmul_xor_right, BitVec.toNat_xor, BitVec.toNat_xor, carryless_xor_right, reduce_xor, ihb, ihb']
    | twoPow j hj => exact gmul_twoPow_toNat hi hj

/-- The table product is the product of GF(2)[x]/(x^8+x^4+x^3+x^2+1) (40_galois_field.md R144). -/
theorem gmul_eq_fieldMul (a b : Byte) : gmul a b = fieldMul a b := by
  rw [fieldMul, ← gmul_toNat, BitVec.ofNat_toNat, BitVec.setWidth_eq]

/-! ### Powers of two in the field -/

theorem gexp_ne_zero (n : Int) : gexp n ≠ 0#8 := expRom_ne_zero (by omega)

theorem gexp_add_period (n : Int) : gexp (n + 255) = gexp n := by
  rw [gexp, gexp, Int.add_emod_right]

theorem gexp_natCast {n : Nat} (h : n < 255) : gexp (n : Int) = expRom n := by
  rw [gexp]; congr 1; omega

theorem gexp_logRom {a : Byte} (h : a ≠ 0#8) : gexp (logRom a : Int) = a := by
  rw [gexp_natCast (logRom_lt h), expRom_logRom h]

/-- Exponents add up (40_galois_field.md R144). -/
theorem gmul_gexp (i j : Int) : gmul (gexp i) (gexp j) = gexp (i + j) := by
  rw [gmul_ne_zero (gexp_ne_zero i) (gexp_ne_zero j), gexp, gexp, gexp, logRom_expRom (by omega),
    logRom_expRom (by omega)]
  congr 1
  omega

/-- `255 - glog(a)` is the exponent of the inverse of `a` (40_galois_field.md R144). -/
theorem gmul_gexp_neg_log {a : Byte} (h : a ≠ 0#8) : gmul a (gexp (255 - (logRom a : Int))) = 1#8 :=
  calc gmul a (gexp (255 - (logRom a : Int)))
    _ = gmul (gexp (logRom a)) (gexp (255 - (logRom a : Int))) := by rw [gexp_logRom h]
    _ = gexp 255 := by rw [gmul_gexp, add_sub_cancel]
    _ = 1#8 := rfl

/-- EXP lists the powers of 2 in the field (40_galois_field.md R141). -/
theorem fieldPow_two (n : Nat) : fieldPow 2#8 n = gexp n := by
  induction n with
  | zero => rfl
  | succ n ih =>
    have htwo : (2#8 : Byte) = gexp 1 := rfl
    rw [fieldPow, ih, ← gmul_eq_fieldMul, htwo, gmul_gexp, Nat.cast_succ]

end Sys2Proof.Machine
end

section
/-! The control command and the commands of the GF unit: what each answers where it completes and where it fails. -/

namespace Sys2Proof.Machine

open Sys2Proof.Spec

variable {s : State}

/-! ### What each command answers -/

theorem exec_nop (s : State) : exec .nop s = .next s.complete := rfl

theorem exec_gexp (s : State) : exec .gexp s = .next (s.withResult ((gexp s.i0).setWidth 32)).complete := rfl

theorem exec_glog_of_mem (h1 : 1 ≤ s.u0) (h255 : s.u0 ≤ 255) :
    exec .glog s = .next (s.withCount (logRom (BitVec.ofNat 8 s.u0))).complete := by
  have hglog : glog s.u0 = .ok (logRom (BitVec.ofNat 8 s.u0)) := if_neg (by omega)
  rw [exec, execGlog, hglog, finish_ok]

theorem exec_glog_domain (h : s.u0 < 1 ∨ 255 < s.u0) : exec .glog s = .next (s.fail .domain) := by
  have hglog : glog s.u0 = .error .domain := if_pos h
  rw [exec, execGlog, hglog, finish_error]

theorem exec_gmul_of_le (h0 : s.u0 ≤ 255) (h1 : s.u1 ≤ 255) :
    exec .gmul s =
      .next (s.withResult ((gmul (BitVec.ofNat 8 s.u0) (BitVec.ofNat 8 s.u1)).setWidth 32)).complete := by
  rw [exec, execGmul, if_neg (not_lt.2 h0), if_neg (not_lt.2 h1), finish_ok]

theorem exec_gmul_domain (h : 255 < s.u0 ∨ 255 < s.u1) : exec .gmul s = .next (s.fail .domain) := by
  rw [exec, execGmul, ← ite_or, if_pos h, finish_error]

/-! ### Operands and results -/

theorem ofNat_byte_toNat {n : Nat} (h : n ≤ 255) : (BitVec.ofNat 8 n).toNat = n :=
  Nat.mod_eq_of_lt (by omega)

theorem ofNat_byte_ne_zero {n : Nat} (h1 : 1 ≤ n) (h255 : n ≤ 255) : BitVec.ofNat 8 n ≠ 0#8 := by
  rw [BitVec.toNat_ne, ofNat_byte_toNat h255]
  exact Nat.ne_of_gt h1

theorem setWidth_byte_toNat (b : Byte) : (b.setWidth 32).toNat = b.toNat := BitVec.toNat_setWidth_of_le (by omega)

/-- A byte as RESULT is below 256 (40_galois_field.md R144). -/
theorem setWidth_byte_lt (b : Byte) : (b.setWidth 32).toNat < 256 :=
  (setWidth_byte_toNat b).trans_lt b.isLt

/-- Only the byte 0 gives the word 0. -/
theorem setWidth_byte_ne_zero {b : Byte} (h : b ≠ 0#8) : b.setWidth 32 ≠ 0#32 := by
  intro h0
  apply h
  rw [← BitVec.toNat_inj, ← setWidth_byte_toNat b, h0]
  rfl

/-- RESULT of a completed GF command is below 256 (40_galois_field.md R144). -/
theorem exec_gf_result_lt {i : Instr} {t : State} (hi : i = .gexp ∨ i = .glog ∨ i = .gmul)
    (h : exec i s = .next t) (herr : t.err = false) : t.result.toNat < 256 := by
  rcases hi with rfl | rfl | rfl
  · cases (exec_gexp s).symm.trans h
    exact setWidth_byte_lt _
  · by_cases hdom : s.u0 < 1 ∨ 255 < s.u0
    · cases (exec_glog_domain hdom).symm.trans h
      cases herr
    · have h1 : 1 ≤ s.u0 := by omega
      have h255 : s.u0 ≤ 255 := by omega
      have hlog := logRom_lt (ofNat_byte_ne_zero h1 h255)
      cases (exec_glog_of_mem h1 h255).symm.trans h
      rw [State.complete_result, State.withCount_result, BitVec.toNat_ofNat, Nat.mod_eq_of_lt (by omega)]
      omega
  · by_cases hdom : 255 < s.u0 ∨ 255 < s.u1
    · cases (exec_gmul_domain hdom).symm.trans h
      cases herr
    · cases (exec_gmul_of_le (s := s) (by omega) (by omega)).symm.trans h
      exact setWidth_byte_lt _

/-- NOP's opcode makes a legal word only with every other bit 0 (40_galois_field.md R140). -/
theorem eq_zero_of_decode {w : Word} {i : Instr} (hopc : w &&& 0xFF#32 = 0#32) (h : decode w = .ok i) : w = 0#32 := by
  have hfield : fieldOPC w = 0#8 := extractLsb'_of_and_eq hopc (by decide)
  have hrow : decode w = onlyFields w false false false .nop := by
    rw [decode, hfield]
    rfl
  obtain ⟨-, hw⟩ := eq_assemble_of_onlyFields (congrArg BitVec.toNat hfield) (hrow.symm.trans h)
  simpa [assemble] using hw

/-! ### The obligations -/

/-- Settles O28: the carry-less product by `gmul_eq_fieldMul`, then the laws one by one. -/
theorem tableProductIsTheFieldProduct : Obligations.TableProductIsTheFieldProduct :=
  ⟨gmul_eq_fieldMul, gmul_comm, gmul_assoc, gmul_xor_right,
    fun a => ⟨gmul_one_left a, gmul_zero_left a, BitVec.xor_self⟩, fun _ _ => gmul_eq_zero.1,
    fun i j => ⟨gmul_gexp i j, gexp_add_period i⟩, fun _ => gmul_gexp_neg_log,
    fun _ _ _ hi _ => exec_gf_result_lt hi⟩

/-- Settles O32: the table product as a number is the reduced carry-less product (`gmul_toNat`). -/
theorem gmulReturnsTheFieldProduct : Obligations.GmulReturnsTheFieldProduct := by
  refine ⟨rfl, fun s => ⟨fun h0 h1 => ?_, exec_gmul_domain⟩⟩
  have hproduct : (gmul (BitVec.ofNat 8 s.u0) (BitVec.ofNat 8 s.u1)).setWidth 32 =
      BitVec.ofNat 32 (reduce (carryless s.u0 s.u1)) := by
    rw [← BitVec.ofNat_toNat, gmul_toNat, ofNat_byte_toNat h0, ofNat_byte_toNat h1]
  rw [Completes, exec_gmul_of_le h0 h1, hproduct]
  rfl

/-- Settles O29: NOP's step completes the state as it stands; `eq_zero_of_decode` for the other words of its opcode. -/
theorem nopCompletes : Obligations.NopCompletes :=
  ⟨rfl, fun s => ⟨exec_nop s, Bool.and_true s.ie⟩, fun _ hopc hne ⟨_, h⟩ => hne (eq_zero_of_decode hopc h)⟩

/-- Settles O30: `gexp` of ARG0 is EXP at the exponent modulo 255, a power of 2 by `fieldPow_two`. -/
theorem gexpReturnsAPowerOfTwo : Obligations.GexpReturnsAPowerOfTwo := by
  refine ⟨rfl, fun s => ?_⟩
  have hlt : (s.i0 % 255).toNat < 255 := by omega
  have hcompletes : Completes .gexp s { s with result := (expRom (s.i0 % 255).toNat).setWidth 32 } := exec_gexp s
  refine ⟨_, Int.toNat_of_nonneg (by omega), hlt, ?_, hcompletes, setWidth_byte_ne_zero (expRom_ne_zero (by omega))⟩
  rwa [fieldPow_two, gexp_natCast hlt]

/-- Settles O31: EXP undoes LOG (`gexp_logRom`), and EXP lists the powers of 2 (`fieldPow_two`). -/
theorem glogReturnsTheLogarithm : Obligations.GlogReturnsTheLogarithm := by
  refine ⟨rfl, fun s => ⟨fun h1 h255 => ?_, exec_glog_domain⟩⟩
  have hne : BitVec.ofNat 8 s.u0 ≠ 0#8 := ofNat_byte_ne_zero h1 h255
  refine ⟨_, logRom_lt hne, exec_glog_of_mem h1 h255, rfl, ?_⟩
  rw [fieldPow_two, gexp_logRom hne, ofNat_byte_toNat h255]

end Sys2Proof.Machine
end

section
/-! XOR sums, the sums of the polynomial statements: the rules of a sum over a range. -/

namespace Sys2Proof.Machine

open Sys2Proof.Spec

variable {n : Nat} {f g : Nat → Byte}

@[simp] theorem xorSum_zero (f : Nat → Byte) : xorSum 0 f = 0#8 := rfl

theorem xorSum_succ (n : Nat) (f : Nat → Byte) : xorSum (n + 1) f = xorSum n f ^^^ f n := by
  rw [xorSum, List.range_succ, List.foldl_concat, xorSum]

/-- The first term taken out of a sum. -/
theorem xorSum_succ' (n : Nat) (f : Nat → Byte) : xorSum (n + 1) f = f 0 ^^^ xorSum n fun i => f (i + 1) := by
  induction n with
  | zero => simp [xorSum_succ]
  | succ n ih => rw [xorSum_succ, ih, xorSum_succ, BitVec.xor_assoc]

theorem xorSum_congr (h : ∀ i < n, f i = g i) : xorSum n f = xorSum n g := by
  induction n with
  | zero => rfl
  | succ n ih => rw [xorSum_succ, xorSum_succ, ih fun i hi => h i (by omega), h n (by omega)]

theorem xorSum_xor (n : Nat) (f g : Nat → Byte) : (xorSum n fun i => f i ^^^ g i) = xorSum n f ^^^ xorSum n g := by
  induction n with
  | zero => simp
  | succ n ih => rw [xorSum_succ, xorSum_succ, xorSum_succ, ih]; ac_rfl

theorem xorSum_gmul (n : Nat) (f : Nat → Byte) (x : Byte) : (xorSum n fun i => gmul (f i) x) = gmul (xorSum n f) x := by
  induction n with
  | zero => simp
  | succ n ih => rw [xorSum_succ, xorSum_succ, ih, gmul_xor_left]

theorem xorSum_eq_zero (h : ∀ i < n, f i = 0#8) : xorSum n f = 0#8 := by
  induction n with
  | zero => rfl
  | succ n ih => rw [xorSum_succ, ih fun i hi => h i (by omega), h n (by omega), BitVec.xor_zero]

/-- A sum in which one term alone may differ from 0. -/
theorem xorSum_single {m : Nat} (hm : m < n) (h : ∀ i < n, i ≠ m → f i = 0#8) : xorSum n f = f m := by
  induction n with
  | zero => omega
  | succ n ih =>
    rw [xorSum_succ]
    rcases Nat.lt_succ_iff_lt_or_eq.1 hm with hlt | rfl
    · rw [ih hlt fun i hi => h i (by omega), h n (by omega) (by omega), BitVec.xor_zero]
    · rw [xorSum_eq_zero fun i hi => h i (by omega) (by omega), BitVec.zero_xor]

/-- A sum read backwards. -/
theorem xorSum_reflect (n : Nat) (f : Nat → Byte) : (xorSum (n + 1) fun i => f (n - i)) = xorSum (n + 1) f := by
  induction n generalizing f with
  | zero => rfl
  | succ n ih =>
    rw [xorSum_succ' (n + 1) f, ← ih, xorSum_succ, Nat.sub_self, BitVec.xor_comm]
    congr 1
    exact xorSum_congr fun i hi => by rw [Nat.succ_sub (by omega)]

end Sys2Proof.Machine
end

section
/-! The words of the polynomial commands, and a command whose checks come before its effects. -/

namespace Sys2Proof

open Sys2Proof.Spec

theorem toNat_append_field {n m : Nat} (x : BitVec n) (y : BitVec m) : (x ++ y).toNat = 2 ^ m * x.toNat + y.toNat := by
  rw [BitVec.toNat_append, ← Nat.shiftLeft_add_eq_or_of_lt y.isLt, Nat.shiftLeft_eq, Nat.mul_comm]

/-- The fields of a command word at their places (30_encoding.md R110, R120). -/
theorem assemble_toNat (opc : BitVec 8) (pd pa pb : BitVec 2) :
    (assemble opc pd pa pb).toNat = opc.toNat + 2 ^ 8 * pd.toNat + 2 ^ 10 * pa.toNat + 2 ^ 12 * pb.toNat := by
  have hfields : assemble opc pd pa pb = (pb ++ pa ++ pd ++ opc).setWidth 32 := by
    ext k hk
    simp only [assemble, BitVec.getElem_or, BitVec.getElem_shiftLeft, BitVec.getElem_setWidth, BitVec.getLsbD_append]
    grind
  rw [hfields, BitVec.toNat_setWidth_of_le (by decide)]
  simp only [toNat_append_field]
  omega

theorem PReg.bits_toNat (r : PReg) : r.bits.toNat = regNum r := by cases r <;> rfl

theorem assemble_regs_toNat (opc : BitVec 8) (pd pa pb : PReg) : (assemble opc pd.bits pa.bits pb.bits).toNat =
    opc.toNat + 2 ^ 8 * regNum pd + 2 ^ 10 * regNum pa + 2 ^ 12 * regNum pb := by
  simp only [assemble_toNat, PReg.bits_toNat]

theorem assemble_pd_toNat (opc : BitVec 8) (pd : PReg) :
    (assemble opc pd.bits 0#2 0#2).toNat = opc.toNat + 2 ^ 8 * regNum pd := assemble_regs_toNat opc pd .p0 .p0

theorem assemble_pa_toNat (opc : BitVec 8) (pa : PReg) :
    (assemble opc 0#2 pa.bits 0#2).toNat = opc.toNat + 2 ^ 10 * regNum pa := assemble_regs_toNat opc .p0 pa .p0

namespace Machine

variable {s : State} {c : Prop} [Decidable c] {k : ErrKind} {r : Except ErrKind State}

theorem finish_check_fails (h : c) : finish s (if c then .error k else r) = .next (s.fail k) := by
  rw [if_pos h, finish_error]

theorem finish_check_passes (h : ¬ c) : finish s (if c then .error k else r) = finish s r := by rw [if_neg h]

end Machine

end Sys2Proof
end

section
/-! The polynomial registers: PCLR, PPUSH, PMOV, PLEN and PGET. -/

namespace Sys2Proof.Machine

open Sys2Proof.Spec

/-- Settles O33: PPUSH's two checks in their order; PCLR and PMOV make none. -/
theorem polynomialRegistersAreLoaded : Obligations.PolynomialRegistersAreLoaded := by
  intro s pd pa
  refine ⟨assemble_pd_toNat _ pd, assemble_pd_toNat _ pd, assemble_regs_toNat _ pd pa .p0, rfl, rfl,
    fun h hl => ?_, finish_check_fails, fun h hl => ?_⟩
  · rw [← BitVec.ofNat_toNat]
    exact (finish_check_passes (not_lt.2 h)).trans (finish_check_passes hl)
  · exact (finish_check_passes (not_lt.2 h)).trans (finish_check_fails hl)

/-- Settles O34: PGET's one check is the bound of the index. -/
theorem polynomialRegistersAreRead : Obligations.PolynomialRegistersAreRead := by
  intro s pa
  refine ⟨assemble_pa_toNat _ pa, assemble_pa_toNat _ pa, rfl, fun h => ?_, finish_check_fails⟩
  rw [← List.getD_eq_getElem _ 0#8 h]
  exact finish_check_passes (not_le.2 h)

end Sys2Proof.Machine
end

section
/-! Coefficient sequences: `coeff` of the shared computations, and PNORM. -/

namespace Sys2Proof.Machine

open Sys2Proof.Spec

/-! ### Sequences -/

@[simp] theorem zeros_length (n : Nat) : (zeros n).length = n := List.length_replicate

theorem zeros_succ (n : Nat) : zeros (n + 1) = 0#8 :: zeros n := List.replicate_succ

theorem zeros_getD (n k : Nat) : (zeros n).getD k 0#8 = 0#8 := by
  rw [zeros, List.getD_eq_getElem?_getD, List.getElem?_getD_replicate_default_eq]

theorem ne_nil_of_head {p : List Byte} (h : p.headD 0#8 ≠ 0#8) : p ≠ [] := by
  rintro rfl
  exact h rfl

@[simp] theorem xorInto_nil (p : List Byte) : xorInto p [] = p := by cases p <;> rfl

theorem getD_map_gmul (c : Byte) (p : List Byte) (k : Nat) : (p.map (gmul c)).getD k 0#8 = gmul c (p.getD k 0#8) := by
  rw [← List.getD_map (f := gmul c), gmul_zero_right]

theorem strip_eq_dropWhile (p : List Byte) : strip p = p.dropWhile (· == 0#8) := by
  induction p with
  | nil => rfl
  | cons c cs ih => rw [strip, List.dropWhile_cons, ih]; simp only [beq_iff_eq]

/-! ### Coefficients -/

theorem coeff_of_length_le {p : List Byte} {k : Nat} (h : p.length ≤ k) : coeff p k = 0#8 :=
  List.getD_eq_default _ _ (by simpa)

@[simp] theorem coeff_nil (k : Nat) : coeff [] k = 0#8 := coeff_of_length_le (Nat.zero_le k)

/-- The leading coefficient stands at the number of coefficients after it. -/
theorem coeff_cons (c : Byte) (p : List Byte) (k : Nat) :
    coeff (c :: p) k = (if k = p.length then c else 0#8) ^^^ coeff p k := by
  rcases Nat.lt_trichotomy k p.length with h | rfl | h
  · rw [if_neg h.ne, BitVec.zero_xor, coeff, List.reverse_cons, List.getD_append _ _ _ _ (by simpa), coeff]
  · rw [if_pos rfl, coeff_of_length_le le_rfl, BitVec.xor_zero, coeff, List.reverse_cons, List.getD_append_right _ _ _ _
      (by simp)]
    simp
  · rw [if_neg h.ne', coeff_of_length_le h.le, coeff_of_length_le h, BitVec.xor_zero]

theorem coeff_concat_zero (p : List Byte) (c : Byte) : coeff (p ++ [c]) 0 = c := by
  rw [coeff, List.reverse_concat, List.getD_cons_zero]

theorem coeff_concat_succ (p : List Byte) (c : Byte) (k : Nat) : coeff (p ++ [c]) (k + 1) = coeff p k := by
  rw [coeff, List.reverse_concat, List.getD_cons_succ, coeff]

theorem coeff_zeros_append (n : Nat) (p : List Byte) (k : Nat) : coeff (zeros n ++ p) k = coeff p k := by
  induction n with
  | zero => rfl
  | succ n ih => rw [zeros_succ, List.cons_append, coeff_cons, ite_self, BitVec.zero_xor, ih]

/-- Stripping keeps every coefficient. -/
theorem coeff_strip (p : List Byte) (k : Nat) : coeff (strip p) k = coeff p k := by
  conv_rhs => rw [strip_spec p, coeff_zeros_append]

theorem coeff_map_gmul (c : Byte) (p : List Byte) (k : Nat) : coeff (p.map (gmul c)) k = gmul c (coeff p k) := by
  rw [coeff, ← List.map_reverse, getD_map_gmul, coeff]

/-- `xorInto` adds at the highest-degree end: what it adds is shifted by the difference of the lengths. -/
theorem coeff_xorInto {p r : List Byte} (h : r.length ≤ p.length) (k : Nat) : coeff (xorInto p r) k =
    coeff p k ^^^ if p.length - r.length ≤ k then coeff r (k - (p.length - r.length)) else 0#8 := by
  induction p generalizing r with
  | nil => cases List.length_eq_zero_iff.1 (Nat.le_zero.1 h); simp
  | cons x xs ih =>
    cases r with
    | nil => simp
    | cons y ys =>
      have hl : ys.length ≤ xs.length := Nat.le_of_succ_le_succ h
      rw [xorInto, coeff_cons, coeff_cons x, xorInto_length, ih hl, List.length_cons, List.length_cons,
        Nat.add_sub_add_right]
      by_cases hd : xs.length - ys.length ≤ k
      · have hlead : k - (xs.length - ys.length) = ys.length ↔ k = xs.length := by omega
        rw [if_pos hd, if_pos hd, coeff_cons y, if_congr hlead rfl rfl]
        split
        · ac_rfl
        · simp only [BitVec.zero_xor]
      · rw [if_neg hd, if_neg hd, if_neg (by omega), if_neg (by omega), BitVec.zero_xor, BitVec.zero_xor]

/-! ### PNORM -/

/-- Settles O35: `strip_spec` and `strip_head` are the strip; PNORM's one check is the length of its result. -/
theorem pnormStripsAndShifts : Obligations.PnormStripsAndShifts := by
  refine ⟨fun p => ⟨_, strip_spec p, strip_head p⟩, fun s pd => ?_⟩
  rw [← strip_eq_dropWhile]
  exact ⟨assemble_pd_toNat _ pd, fun h => finish_check_passes (not_lt.2 h), finish_check_fails⟩

end Sys2Proof.Machine
end

section
/-! Products: the double loop of PMUL computes the product of the statements. -/

namespace Sys2Proof.Machine

open Sys2Proof.Spec

/-! ### The double loop -/

/-- The first row of the double loop settles the first coefficient. -/
theorem mulRows_cons (x : Byte) (xs : List Byte) (y : Byte) (ys : List Byte) (z : Byte) (zs : List Byte) :
    mulRows (x :: xs) (y :: ys) (z :: zs) =
      (z ^^^ gmul x y) :: mulRows xs (y :: ys) (xorInto zs (ys.map (gmul x))) := rfl

/-- Coefficient `k` of the double loop: what stood there and the products of index sum `k` (41_polynomial.md R168). -/
theorem mulRows_getD {a b c : List Byte} (hb : b ≠ []) (h : a.length + b.length ≤ c.length + 1) (k : Nat) :
    (mulRows a b c).getD k 0#8 = c.getD k 0#8 ^^^ xorSum (k + 1) fun i => gmul (a.getD i 0#8) (b.getD (k - i) 0#8) := by
  obtain ⟨y, ys, rfl⟩ := List.exists_cons_of_ne_nil hb
  induction a generalizing c k with
  | nil => rw [mulRows, xorSum_eq_zero fun i _ => by rw [List.getD_nil, gmul_zero_left], BitVec.xor_zero]
  | cons x xs ih =>
    simp only [List.length_cons] at h
    cases c with
    | nil => rw [List.length_nil] at h; omega
    | cons z zs =>
      rw [List.length_cons] at h
      rw [mulRows_cons, xorSum_succ']
      cases k with
      | zero => simp
      | succ k =>
        simp only [List.getD_cons_succ, List.getD_cons_zero, Nat.sub_zero, Nat.add_sub_add_right]
        rw [ih _ (by rw [xorInto_length, List.length_cons]; omega), xorInto_getD _ _ _ (by rw [List.length_map]; omega),
          getD_map_gmul, BitVec.xor_assoc]

theorem product_length (a b : List Byte) : (product a b).length = a.length + b.length - 1 := by
  rw [product, List.length_map, List.length_range]

theorem mulRows_eq_product {a b : List Byte} (hb : b ≠ []) :
    mulRows a b (zeros (a.length + b.length - 1)) = product a b := by
  apply List.ext_getElem
  · rw [mulRows_length, zeros_length, product_length]
  · intro k hk hk'
    rw [← List.getD_eq_getElem _ 0#8, mulRows_getD hb (by rw [zeros_length]; omega), zeros_getD, BitVec.zero_xor]
    simp only [product, List.getElem_map, List.getElem_range, gmul_eq_fieldMul]

/-! ### The product -/

theorem product_getD (a : List Byte) {b : List Byte} (hb : b ≠ []) (k : Nat) :
    (product a b).getD k 0#8 = xorSum (k + 1) fun i => gmul (a.getD i 0#8) (b.getD (k - i) 0#8) := by
  rw [← mulRows_eq_product hb, mulRows_getD hb (by rw [zeros_length]; omega), zeros_getD, BitVec.zero_xor]

theorem product_comm (a b : List Byte) : product a b = product b a := by
  rw [product, product, Nat.add_comm b.length]
  refine List.map_congr_left fun k _ => ?_
  rw [← xorSum_reflect]
  refine xorSum_congr fun i hi => ?_
  rw [← gmul_eq_fieldMul, ← gmul_eq_fieldMul, gmul_comm, Nat.sub_sub_self (by omega)]

theorem polyMul_nil {a b : List Byte} (h : a = [] ∨ b = []) : polyMul a b = [] :=
  if_pos (by simpa only [List.length_eq_zero_iff])

theorem polyMul_eq_strip_product {a b : List Byte} (ha : a ≠ []) (hb : b ≠ []) : polyMul a b = strip (product a b) := by
  rw [polyMul, if_neg (by simp [ha, hb]), mulRows_eq_product hb]

theorem polyMul_comm (a b : List Byte) : polyMul a b = polyMul b a := by
  by_cases h : a = [] ∨ b = []
  · rw [polyMul_nil h, polyMul_nil h.symm]
  · obtain ⟨ha, hb⟩ := not_or.1 h
    rw [polyMul_eq_strip_product ha hb, polyMul_eq_strip_product hb ha, product_comm]

/-- Factors without a leading zero: nothing is stripped. -/
theorem polyMul_eq_product {a b : List Byte} (ha : a.headD 0#8 ≠ 0#8) (hb : b.headD 0#8 ≠ 0#8) :
    polyMul a b = product a b := by
  have hstrip := polyMul_eq_strip_product (ne_nil_of_head ha) (ne_nil_of_head hb)
  have hlen : (strip (product a b)).length = (product a b).length := by
    rw [← hstrip, (polyMul_head ha hb).1, product_length]
  have hspec := strip_spec (product a b)
  rw [hlen, Nat.sub_self] at hspec
  exact hstrip.trans hspec.symm

/-! ### PMUL -/

section
variable {s : State} {pd pa pb : PReg}

theorem exec_pmul_of_le (h : s.polyReg pa = [] ∨ s.polyReg pb = [] ∨
      (s.polyReg pa).length + (s.polyReg pb).length - 1 ≤ 512) :
    exec (.pmul pd pa pb) s = .next ((s.withPoly pd (polyMul (s.polyReg pa) (s.polyReg pb))).withCount
      (polyMul (s.polyReg pa) (s.polyReg pb)).length).complete := by
  simp only [← List.length_eq_zero_iff] at h
  refine finish_check_passes fun ⟨ha, hb, hcap⟩ => ?_
  exact absurd ((h.resolve_left ha).resolve_left hb) (not_le.2 hcap)

theorem exec_pmul_resource (ha : s.polyReg pa ≠ []) (hb : s.polyReg pb ≠ [])
    (h : 512 < (s.polyReg pa).length + (s.polyReg pb).length - 1) :
    exec (.pmul pd pa pb) s = .next (s.fail .resource) :=
  finish_check_fails ⟨mt List.length_eq_zero_iff.1 ha, mt List.length_eq_zero_iff.1 hb, h⟩

/-- The order of the factors does not matter (41_polynomial.md R168). -/
theorem exec_pmul_comm (s : State) (pd pa pb : PReg) : exec (.pmul pd pa pb) s = exec (.pmul pd pb pa) s := by
  simp only [exec, execPmul, polyMul_comm (s.polyReg pa), Nat.add_comm (s.polyReg pa).length, and_left_comm]

end

/-- Settles O36: the double loop is the product (`mulRows_eq_product`), which is commutative (`product_comm`). -/
theorem pmulReturnsTheProduct : Obligations.PmulReturnsTheProduct := by
  intro s pd pa pb
  refine ⟨assemble_regs_toNat _ pd pa pb, fun h => ?_, fun ha hb h => ?_, exec_pmul_resource, exec_pmul_comm s pd pa pb⟩
  · rw [Completes, exec_pmul_of_le (h.imp_right .inl), polyMul_nil h]
    rfl
  · rw [Completes, exec_pmul_of_le (.inr (.inr h)), polyMul_eq_strip_product ha hb, strip_eq_dropWhile]
    rfl

end Sys2Proof.Machine
end

section
/-! Division: every pass of PMOD's loop subtracts a multiple of the divisor (41_polynomial.md R170). -/

namespace Sys2Proof.Machine

open Sys2Proof.Spec

/-! ### Multiples of the divisor -/

@[simp] theorem productCoeff_nil (b : List Byte) (k : Nat) : productCoeff [] b k = 0#8 :=
  xorSum_eq_zero fun i _ => by rw [← gmul_eq_fieldMul, coeff_nil, gmul_zero_left]

/-- A further leading coefficient of a factor adds that multiple of the other factor, shifted. -/
theorem productCoeff_cons (c : Byte) (a b : List Byte) (k : Nat) : productCoeff (c :: a) b k =
    (if a.length ≤ k then gmul c (coeff b (k - a.length)) else 0#8) ^^^ productCoeff a b k := by
  simp only [productCoeff, ← gmul_eq_fieldMul, coeff_cons c, gmul_xor_left, xorSum_xor]
  congr 1
  split
  · rw [xorSum_single (m := a.length) (by omega) fun i _ hi => by rw [if_neg hi, gmul_zero_left], if_pos rfl]
  · exact xorSum_eq_zero fun i hi => by rw [if_neg (by omega), gmul_zero_left]

theorem productCoeff_zeros_append (n : Nat) (a b : List Byte) (k : Nat) :
    productCoeff (zeros n ++ a) b k = productCoeff a b k := by
  simp only [productCoeff, coeff_zeros_append]

/-! ### The loop -/

/-- A pass adds a multiple of the divisor at the front of the dividend, and strips (41_polynomial.md R169). -/
theorem modPass_eq (a b : List Byte) : ∃ c, modPass a b = strip (xorInto a (b.map (gmul c))) := by
  refine ⟨gexp ((logRom (a.headD 0#8) : Int) - (logRom (b.headD 0#8) : Int)),
    congrArg (fun row => strip (xorInto a row)) (List.map_congr_left fun bi _ => ?_)⟩
  split
  · next h => rw [h, gmul_zero_right]
  · next h =>
    conv_rhs => rw [← gexp_logRom h]
    rw [gmul_gexp, add_comm]

/-- Dividend and remainder of the loop differ by a multiple of the divisor (41_polynomial.md R170 item 3). The bound on
the quotient leaves room for the leading coefficient of one more pass. -/
theorem modLoop_quotient {fuel : Nat} {a b r : List Byte} (hb0 : b.headD 0#8 ≠ 0#8) (h : modLoop fuel a b = .ok r) :
    ∃ q, q.length ≤ a.length + 1 - b.length ∧ ∀ k, coeff a k = productCoeff q b k ^^^ coeff r k := by
  induction fuel generalizing a with
  | zero =>
    cases h
    exact ⟨[], Nat.zero_le _, fun k => by simp⟩
  | succ fuel ih =>
    rw [modLoop] at h
    split_ifs at h with hlt ha0
    · cases h
      exact ⟨[], Nat.zero_le _, fun k => by simp⟩
    · have hle := not_lt.1 hlt
      have hshort := modPass_length_lt (mt List.length_eq_zero_iff.1 (ne_nil_of_head hb0)) hle ha0 hb0
      obtain ⟨q, hq, hcoeff⟩ := ih h
      obtain ⟨c, hpass⟩ := modPass_eq a b
      have hlen : (zeros (a.length - b.length - q.length) ++ q).length = a.length - b.length := by
        rw [List.length_append, zeros_length]
        omega
      refine ⟨c :: (zeros (a.length - b.length - q.length) ++ q), ?_, fun k => ?_⟩
      · rw [List.length_cons, hlen]
        omega
      · have hk := hcoeff k
        rw [hpass, coeff_strip, coeff_xorInto (by rwa [List.length_map]), List.length_map, coeff_map_gmul] at hk
        rw [productCoeff_cons, productCoeff_zeros_append, hlen, BitVec.xor_assoc, ← hk, BitVec.xor_comm,
          BitVec.xor_assoc, BitVec.xor_self, BitVec.xor_zero]

/-- A stripped dividend has a stripped remainder (41_polynomial.md R170 item 4). -/
theorem modLoop_stripped {fuel : Nat} {a b r : List Byte} (h : modLoop fuel a b = .ok r)
    (ha : a = [] ∨ a.headD 0#8 ≠ 0#8) : r = [] ∨ r.headD 0#8 ≠ 0#8 := by
  induction fuel generalizing a with
  | zero => cases h; exact ha
  | succ fuel ih =>
    rw [modLoop] at h
    split_ifs at h
    · cases h; exact ha
    · exact ih h (modPass_head_ok a b)

/-! ### PMOD -/

theorem polyMod_eq_modLoop (a : List Byte) {b : List Byte} (hb0 : b.headD 0#8 ≠ 0#8) :
    polyMod a b = modLoop (a.length + 1) a b := by
  rw [polyMod, if_neg (mt List.length_eq_zero_iff.1 (ne_nil_of_head hb0)), if_neg hb0]

/-- The failures of PMOD; an empty divisor has the leading coefficient 0 as well (41_polynomial.md R169). -/
theorem polyMod_domain {a b : List Byte} (h : b.headD 0#8 = 0#8 ∨ b.length ≤ a.length ∧ a.headD 0#8 = 0#8) :
    polyMod a b = .error .domain := by
  by_cases hb0 : b.headD 0#8 = 0#8
  · rw [polyMod, if_pos hb0, ite_self]
  · obtain ⟨hle, ha0⟩ := h.resolve_left hb0
    rw [polyMod_eq_modLoop a hb0, modLoop, if_neg (not_lt.2 hle), if_pos ha0]

section
variable {s : State} {pd pa pb : PReg}

theorem exec_pmod_of_ok {r : List Byte} (h : polyMod (s.polyReg pa) (s.polyReg pb) = .ok r) :
    exec (.pmod pd pa pb) s = .next ((s.withPoly pd r).withCount r.length).complete := by
  rw [exec, execPmod, h, finish_ok]

theorem exec_pmod_domain (h : (s.polyReg pb).headD 0#8 = 0#8 ∨
      (s.polyReg pb).length ≤ (s.polyReg pa).length ∧ (s.polyReg pa).headD 0#8 = 0#8) :
    exec (.pmod pd pa pb) s = .next (s.fail .domain) := by
  rw [exec, execPmod, polyMod_domain h, finish_error]

end

/-- Settles O37: `modLoop_quotient` gives the quotient, `polyMod_ok` the remainder and its length. -/
theorem pmodReturnsTheRemainder : Obligations.PmodReturnsTheRemainder := by
  intro s pd pa pb
  refine ⟨assemble_regs_toNat _ pd pa pb, fun hb hb0 ha => ?_, fun hb => exec_pmod_domain (.inl ?_),
    fun _ hb0 => exec_pmod_domain (.inl hb0), fun _ hle ha0 => exec_pmod_domain (.inr ⟨hle, ha0⟩)⟩
  · obtain ⟨r, hr, hshort, -, hsame⟩ := polyMod_ok (mt List.length_eq_zero_iff.1 hb) hb0 ha
    have hloop := (polyMod_eq_modLoop _ hb0).symm.trans hr
    obtain ⟨q, -, hq⟩ := modLoop_quotient hb0 hloop
    exact ⟨r, q, exec_pmod_of_ok hr, hshort, hsame,
      fun hle => modLoop_stripped hloop (.inr (ha.resolve_left (not_lt.2 hle))), hq⟩
  · rw [State.polyReg, hb, List.headD_nil]

end Sys2Proof.Machine
end

section
/-! Values: Horner's rule is the sum of coefficient times power, and values multiply. -/

namespace Sys2Proof.Machine

open Sys2Proof.Spec

section
variable (x : Byte)

/-! ### Powers -/

theorem gmul_one_right (a : Byte) : gmul a 1#8 = a := by rw [gmul_comm, gmul_one_left]

theorem fieldPow_zero : fieldPow x 0 = 1#8 := rfl

theorem fieldPow_succ (n : Nat) : fieldPow x (n + 1) = gmul (fieldPow x n) x := (gmul_eq_fieldMul _ _).symm

theorem fieldPow_add (m n : Nat) : fieldPow x (m + n) = gmul (fieldPow x m) (fieldPow x n) := by
  induction n with
  | zero => exact (gmul_one_right _).symm
  | succ n ih => rw [← Nat.add_assoc, fieldPow_succ, fieldPow_succ, ih, gmul_assoc]

/-! ### Horner's rule -/

@[simp] theorem polyEval_nil : polyEval [] x = 0#8 := rfl

theorem polyEval_concat (p : List Byte) (c : Byte) : polyEval (p ++ [c]) x = gmul (polyEval p x) x ^^^ c :=
  List.foldl_concat ..

/-- Horner's rule computes the sum of coefficient times power (41_polynomial.md R172). -/
theorem polyEval_eq_value (p : List Byte) : polyEval p x = value p x := by
  induction p using List.reverseRecOn with
  | nil => rfl
  | append_singleton p c ih =>
    have hshift (k : Nat) : gmul (coeff (p ++ [c]) (k + 1)) (fieldPow x (k + 1)) =
        gmul (gmul (coeff p k) (fieldPow x k)) x := by rw [coeff_concat_succ, fieldPow_succ, gmul_assoc]
    simp only [value, ← gmul_eq_fieldMul] at ih ⊢
    rw [polyEval_concat, ih, List.length_append, List.length_singleton, xorSum_succ', coeff_concat_zero, fieldPow_zero,
      gmul_one_right, BitVec.xor_comm, ← xorSum_gmul]
    simp only [hshift]

/-- The leading coefficient's share of the value. -/
theorem polyEval_cons (c : Byte) (p : List Byte) :
    polyEval (c :: p) x = gmul c (fieldPow x p.length) ^^^ polyEval p x := by
  induction p using List.reverseRecOn with
  | nil => simp [polyEval, fieldPow_zero, gmul_one_right]
  | append_singleton p d ih =>
    rw [← List.cons_append, polyEval_concat, polyEval_concat, ih, List.length_append, List.length_singleton,
      fieldPow_succ, gmul_xor_left, gmul_assoc, BitVec.xor_assoc]

theorem polyEval_zeros (n : Nat) : polyEval (zeros n) x = 0#8 := by
  induction n with
  | zero => rfl
  | succ n ih => rw [zeros_succ, polyEval_cons, gmul_zero_left, BitVec.zero_xor, ih]

theorem polyEval_map_gmul (c : Byte) (p : List Byte) : polyEval (p.map (gmul c)) x = gmul c (polyEval p x) := by
  induction p with
  | nil => exact (gmul_zero_right c).symm
  | cons d p ih => rw [List.map_cons, polyEval_cons, polyEval_cons, ih, List.length_map, gmul_xor_right, gmul_assoc]

/-! ### The value of a product -/

/-- `xorInto` adds at the highest-degree end: the value of what it adds counts shifted. -/
theorem polyEval_xorInto {p r : List Byte} (h : r.length ≤ p.length) :
    polyEval (xorInto p r) x = polyEval p x ^^^ gmul (polyEval r x) (fieldPow x (p.length - r.length)) := by
  induction p generalizing r with
  | nil => cases List.length_eq_zero_iff.1 (Nat.le_zero.1 h); simp
  | cons c cs ih =>
    cases r with
    | nil => simp
    | cons d ds =>
      have hl : ds.length ≤ cs.length := Nat.le_of_succ_le_succ h
      have hpow : gmul (fieldPow x ds.length) (fieldPow x (cs.length - ds.length)) = fieldPow x cs.length := by
        rw [← fieldPow_add, Nat.add_sub_cancel' hl]
      rw [xorInto, polyEval_cons, polyEval_cons, polyEval_cons, ih hl, xorInto_length, List.length_cons,
        List.length_cons, Nat.add_sub_add_right, gmul_xor_left, gmul_xor_left, gmul_assoc, hpow]
      ac_rfl

/-- Row by row, the double loop adds the product of the values. -/
theorem polyEval_mulRows {a b c : List Byte} (hb : b ≠ []) (h : a.length + b.length = c.length + 1) :
    polyEval (mulRows a b c) x = polyEval c x ^^^ gmul (polyEval a x) (polyEval b x) := by
  obtain ⟨y, ys, rfl⟩ := List.exists_cons_of_ne_nil hb
  induction a generalizing c with
  | nil => rw [mulRows, polyEval_nil, gmul_zero_left, BitVec.xor_zero]
  | cons d a ih =>
    simp only [List.length_cons] at h
    cases c with
    | nil => rw [List.length_nil] at h; omega
    | cons z zs =>
      rw [List.length_cons] at h
      have hshift : zs.length - ys.length = a.length := by omega
      have hrow := polyEval_xorInto x (p := z :: zs) (r := (y :: ys).map (gmul d))
        (by rw [List.length_map, List.length_cons, List.length_cons]; omega)
      rw [polyEval_map_gmul, List.length_map, List.length_cons, List.length_cons, Nat.add_sub_add_right, hshift,
        List.map_cons, xorInto] at hrow
      calc polyEval (mulRows (d :: a) (y :: ys) (z :: zs)) x
        _ = polyEval ((z ^^^ gmul d y) :: xorInto zs (ys.map (gmul d))) x ^^^
              gmul (polyEval a x) (polyEval (y :: ys) x) := by
            rw [mulRows_cons, polyEval_cons, polyEval_cons _ (z ^^^ gmul d y), mulRows_length,
              ih (by rw [xorInto_length, List.length_cons]; omega), BitVec.xor_assoc]
        _ = polyEval (z :: zs) x ^^^ gmul (polyEval (d :: a) x) (polyEval (y :: ys) x) := by
            rw [hrow, polyEval_cons _ d, gmul_xor_left, gmul_assoc d, gmul_assoc d, gmul_comm (fieldPow x a.length),
              BitVec.xor_assoc]

theorem polyEval_product (a : List Byte) {b : List Byte} (hb : b ≠ []) :
    polyEval (product a b) x = gmul (polyEval a x) (polyEval b x) := by
  have hlen : 0 < b.length := List.length_pos_iff.2 hb
  rw [← mulRows_eq_product hb, polyEval_mulRows x hb (by rw [zeros_length]; omega), polyEval_zeros, BitVec.zero_xor]

end

/-! ### PEVAL -/

/-- Settles O39: Horner's rule computes the value (`polyEval_eq_value`). -/
theorem pevalReturnsTheValue : Obligations.PevalReturnsTheValue := by
  intro s pa
  refine ⟨assemble_pa_toNat _ pa, fun h => ?_, finish_check_fails⟩
  rw [← polyEval_eq_value, ← BitVec.ofNat_toNat 8]
  exact finish_check_passes (not_lt.2 h)

end Sys2Proof.Machine
end

section
/-! The generator polynomial: its factors, its roots, and why it has no zero coefficient. -/

namespace Sys2Proof.Machine

open Sys2Proof.Spec

/-! ### Factors and roots -/

/-- The next generator is the product with the next factor, nothing stripped (41_polynomial.md R171). -/
theorem genPoly_succ_eq_product (n : Nat) : genPoly (n + 1) = product (genPoly n) [1#8, fieldPow 2#8 n] := by
  have hfactor : expRom (n % 255) = fieldPow 2#8 n := (fieldPow_two n).symm
  have hone : (1#8 : Byte) ≠ 0#8 := by decide
  have hhead : (genPoly n).headD 0#8 ≠ 0#8 := (genPoly_shape n).2.trans_ne hone
  rw [genPoly_succ, hfactor, polyMul_eq_product hhead (b := [1#8, _]) hone]

theorem genPoly_eq_generator (n : Nat) : genPoly n = generator n := by
  induction n with
  | zero => rfl
  | succ n ih => rw [genPoly_succ_eq_product, ih, generator, generator, List.range_succ, List.foldl_concat]

theorem polyEval_linear (r x : Byte) : polyEval [1#8, r] x = x ^^^ r := by
  simp [polyEval, gmul_one_left]

/-- The roots of the generator (41_polynomial.md R171). -/
theorem genPoly_root {n j : Nat} (h : j < n) : polyEval (genPoly n) (fieldPow 2#8 j) = 0#8 := by
  induction n with
  | zero => omega
  | succ n ih =>
    rw [genPoly_succ_eq_product, polyEval_product _ _ (List.cons_ne_nil _ _), polyEval_linear]
    rcases Nat.lt_succ_iff_lt_or_eq.1 h with hlt | rfl
    · rw [ih hlt, gmul_zero_left]
    · rw [BitVec.xor_self, gmul_zero_right]

/-! ### Coefficients

Coefficient `k` of the generator, from the highest degree down, is the sum of the products of `k` different powers out
of `2^0 .. 2^(n-1)`, a Gaussian binomial coefficient times a power of 2. So neighbours have the ratio of
`genPoly_ratio`, whose numerator vanishes only where two of the first 255 powers agree. -/

theorem genPoly_getD_zero (n : Nat) : (genPoly n).getD 0 0#8 = 1#8 := by
  rw [← List.headD_eq_getD, (genPoly_shape n).2]

theorem genPoly_succ_getD (n k : Nat) : (genPoly (n + 1)).getD (k + 1) 0#8 =
    (genPoly n).getD (k + 1) 0#8 ^^^ gmul (fieldPow 2#8 n) ((genPoly n).getD k 0#8) := by
  have hne : genPoly n ≠ [] := List.ne_nil_of_length_eq_add_one (genPoly_shape n).1
  rw [genPoly_succ_eq_product, product_comm, product_getD _ hne, xorSum_succ', xorSum_succ',
    xorSum_eq_zero fun i _ => by simp]
  simp [gmul_one_left]

theorem xor_xor_xor_cancel (a b c : Byte) : a ^^^ b ^^^ (c ^^^ a) = b ^^^ c := by
  rw [BitVec.xor_comm c, BitVec.xor_comm a, BitVec.xor_assoc, ← BitVec.xor_assoc a, BitVec.xor_self, BitVec.zero_xor]

/-- The ratio of neighbouring coefficients of the generator. -/
theorem genPoly_ratio (n k : Nat) :
    gmul (fieldPow 2#8 (k + 1) ^^^ 1#8) ((genPoly n).getD (k + 1) 0#8) =
      gmul (fieldPow 2#8 n ^^^ fieldPow 2#8 k) ((genPoly n).getD k 0#8) := by
  induction n generalizing k with
  | zero => cases k <;> simp [genPoly]
  | succ n ih =>
    have hleft : gmul (fieldPow 2#8 (k + 1) ^^^ 1#8) ((genPoly (n + 1)).getD (k + 1) 0#8) =
        gmul (fieldPow 2#8 k ^^^ fieldPow 2#8 (n + (k + 1))) ((genPoly n).getD k 0#8) := by
      rw [genPoly_succ_getD, gmul_xor_right, ih, ← gmul_assoc, ← gmul_xor_left, gmul_xor_left _ _ (fieldPow 2#8 n),
        ← fieldPow_add, gmul_one_left, Nat.add_comm (k + 1), xor_xor_xor_cancel]
    have hright : gmul (fieldPow 2#8 (n + 1) ^^^ fieldPow 2#8 k) ((genPoly (n + 1)).getD k 0#8) =
        gmul (fieldPow 2#8 k ^^^ fieldPow 2#8 (n + (k + 1))) ((genPoly n).getD k 0#8) := by
      cases k with
      | zero => rw [genPoly_getD_zero, genPoly_getD_zero, BitVec.xor_comm]
      | succ j =>
        have hlast : gmul (fieldPow 2#8 (n + 1) ^^^ fieldPow 2#8 (j + 1))
              (gmul (fieldPow 2#8 n) ((genPoly n).getD j 0#8)) =
            gmul (fieldPow 2#8 (n + 1)) (gmul (fieldPow 2#8 (j + 1) ^^^ 1#8) ((genPoly n).getD (j + 1) 0#8)) := by
          rw [ih, fieldPow_succ, fieldPow_succ, ← gmul_xor_left, ← gmul_assoc, ← gmul_assoc]
          congr 1
          rw [gmul_comm, gmul_assoc, gmul_comm _ 2#8]
        rw [genPoly_succ_getD, gmul_xor_right, hlast, ← gmul_assoc, ← gmul_xor_left,
          gmul_xor_right (fieldPow 2#8 (n + 1)), ← fieldPow_add, gmul_one_right, xor_xor_xor_cancel,
          Nat.succ_add_eq_add_succ]
    rw [hleft, hright]

theorem fieldPow_two_inj {i j : Nat} (hi : i < 255) (hj : j < 255) (h : fieldPow 2#8 i = fieldPow 2#8 j) : i = j := by
  rw [fieldPow_two, fieldPow_two, gexp_natCast hi, gexp_natCast hj] at h
  rw [← logRom_expRom hi, h, logRom_expRom hj]

/-- A generator of degree below 255 has no zero coefficient; R171 claims it up to degree 68. -/
theorem genPoly_getD_ne_zero {n k : Nat} (hn : n < 255) (hk : k ≤ n) : (genPoly n).getD k 0#8 ≠ 0#8 := by
  induction k with
  | zero => rw [genPoly_getD_zero]; decide
  | succ k ih =>
    intro h0
    have hratio := genPoly_ratio n k
    rw [h0, gmul_zero_right, eq_comm, gmul_eq_zero, BitVec.xor_eq_zero_iff] at hratio
    rcases hratio with h | h
    · exact absurd (fieldPow_two_inj hn (by omega) h) (by omega)
    · exact ih (by omega) h

theorem genPoly_ne_zero_of_mem {n : Nat} (hn : n < 255) {c : Byte} (hc : c ∈ genPoly n) : c ≠ 0#8 := by
  obtain ⟨k, hk, rfl⟩ := List.mem_iff_getElem.1 hc
  rw [← List.getD_eq_getElem _ 0#8]
  rw [(genPoly_shape n).1] at hk
  exact genPoly_getD_ne_zero hn (by omega)

/-! ### PGEN -/

/-- Settles O38: `genPoly_eq_generator`, `genPoly_root` and `genPoly_ne_zero_of_mem`. -/
theorem pgenReturnsTheGenerator : Obligations.PgenReturnsTheGenerator := by
  intro s pd
  refine ⟨assemble_pd_toNat _ pd, fun h => ⟨genPoly s.u0, finish_check_passes (not_lt.2 h), genPoly_eq_generator _,
    (genPoly_shape _).1, (genPoly_shape _).2, fun j hj => ?_,
    fun _ h68 _ => genPoly_ne_zero_of_mem (h68.trans_lt (by decide))⟩, finish_check_fails⟩
  rw [← polyEval_eq_value, ← fieldPow_two, genPoly_root hj]

end Sys2Proof.Machine
end

section
/-! Bit sequences as the statements write them, and the commands on single values: BBCLR, BBPUT, BBBIT, BBLEN, BBGET. -/

namespace Sys2Proof.Machine

open Sys2Proof.Spec

/-- Testing a bit is the parity of a quotient by a power of 2. -/
theorem bitsOf_eq_bits (v w : Nat) : bitsOf v w = bits v w :=
  List.map_congr_left fun _ _ => Nat.testBit_eq_decide_div_mod_eq

@[simp] theorem bits_length (v w : Nat) : (bits v w).length = w := by rw [← bitsOf_eq_bits, bitsOf_length]

/-- A word is nonzero as a number exactly where it is nonzero as a word. -/
theorem toNat_bne_zero (w : Word) : (w.toNat != 0) = decide (w ≠ 0#32) := by
  rw [Bool.eq_iff_iff, bne_iff_ne, decide_eq_true_iff]
  exact not_congr (BitVec.toNat_inj (y := 0#32))

/-- A bit below the length, as the count that BBGET returns (42_bit_buffer.md R194). -/
theorem ofNat_bitAt {bb : List Bool} {i : Nat} (h : i < bb.length) :
    BitVec.ofNat 32 (bitAt bb i).toNat = if bb[i] then 1#32 else 0#32 := by
  rw [bitAt, List.getD_eq_getElem _ _ h]
  cases bb[i] <;> rfl

/-- Settles O40: BBPUT's two checks in their order, and BBBIT's one; BBCLR makes none. -/
theorem bitBufferCommandsAppend : Obligations.BitBufferCommandsAppend := by
  refine ⟨by decide, fun s => ⟨rfl, fun hw hfit => ?_, finish_check_fails, fun hw hfull => ?_, fun hfit => ?_,
    finish_check_fails⟩⟩
  · rw [← bitsOf_eq_bits]
    exact (finish_check_passes (not_lt.2 hw)).trans (finish_check_passes (not_lt.2 hfit))
  · exact (finish_check_passes (not_lt.2 hw)).trans (finish_check_fails hfull)
  · rw [← toNat_bne_zero]
    exact finish_check_passes (not_lt.2 hfit)

/-- Settles O41: BBGET's one check is the bound of the index; BBLEN makes none. -/
theorem bitBufferIsRead : Obligations.BitBufferIsRead := by
  refine ⟨by decide, fun s => ⟨rfl, fun h => ?_, finish_check_fails⟩⟩
  rw [← ofNat_bitAt h]
  exact finish_check_passes (not_le.2 h)

end Sys2Proof.Machine
end

section
/-! FINAL: the terminator and the zeros to the byte boundary are one run of zeros, and the pad bytes follow. -/

namespace Sys2Proof.Machine

open Sys2Proof.Spec

/-! ### The appended bits -/

theorem padBytes_succ (n : Nat) : padBytes (n + 1) = padBytes n ++ bitsOf (if n % 2 = 0 then 0xEC else 0x11) 8 := by
  rw [padBytes, List.range_succ, List.flatMap_append, List.flatMap_singleton, padBytes]

/-- Bit `k` of the pad bytes is bit `7 - k % 8` of pad byte `k / 8` (42_bit_buffer.md R205). -/
theorem padBytes_getD {n k : Nat} (h : k < 8 * n) :
    (padBytes n).getD k false = (if k / 8 % 2 = 0 then 0xEC else 0x11 : Nat).testBit (7 - k % 8) := by
  induction n with
  | zero => omega
  | succ n ih =>
    rw [padBytes_succ]
    by_cases hk : k < 8 * n
    · rw [List.getD_append _ _ _ _ (by rwa [padBytes_length]), ih hk]
    · have hbyte : k / 8 = n := by omega
      have hbit : k - 8 * n = k % 8 := by omega
      rw [List.getD_append_right _ _ _ _ (by rw [padBytes_length]; omega), padBytes_length, hbit, hbyte,
        bitsOf_getD _ (Nat.mod_lt _ (by decide))]

/-- How many zeros FINAL appends before the pad bytes: the terminator and those up to the byte boundary
(42_bit_buffer.md R205). -/
def finalZeros (len cap : Nat) : Nat := min 4 (cap - len) + (8 - (len + min 4 (cap - len)) % 8) % 8

theorem finalBits_eq_zeros_append (len cap : Nat) : finalBits len cap =
    List.replicate (finalZeros len cap) false ++ padBytes ((cap - len - finalZeros len cap) / 8) := by
  rw [finalZeros, List.replicate_add, ← Nat.sub_sub (cap - len)]
  rfl

theorem finalBits_getD_of_lt {len cap k : Nat} (h : k < finalZeros len cap) : (finalBits len cap).getD k false = false := by
  rw [finalBits_eq_zeros_append, List.getD_append _ _ _ _ (by rwa [List.length_replicate]), List.getD_replicate _ h]

/-- What is left after the zeros is a number of whole bytes (42_bit_buffer.md R206). -/
theorem gap_sub_finalZeros_mod {len cap : Nat} (h8 : cap % 8 = 0) :
    (cap - len - finalZeros len cap) % 8 = 0 := by
  rw [finalZeros]; omega

theorem finalBits_getD_of_le {len cap k : Nat} (h8 : cap % 8 = 0) (hz : finalZeros len cap ≤ k)
    (hk : k < cap - len) : (finalBits len cap).getD k false =
      (if (k - finalZeros len cap) / 8 % 2 = 0 then 0xEC else 0x11 : Nat).testBit (7 - (k - finalZeros len cap) % 8) := by
  have hbytes := gap_sub_finalZeros_mod (len := len) h8
  rw [finalBits_eq_zeros_append, List.getD_append_right _ _ _ _ (by rwa [List.length_replicate]), List.length_replicate,
    padBytes_getD (by omega)]

/-! ### FINAL -/

section
variable {s : State}

theorem exec_final_of_le (hblk : s.blk ≠ []) (h : s.bb.length ≤ s.capacity) : exec .final s =
    .next ((s.appendBits (finalBits s.bb.length s.capacity)).withCount (s.capacity - s.bb.length)).complete :=
  (finish_check_passes (mt List.length_eq_zero_iff.1 hblk)).trans (finish_check_passes (not_lt.2 h))

/-- At the capacity FINAL appends nothing and returns 0 (42_bit_buffer.md R206). -/
theorem exec_final_full (hblk : s.blk ≠ []) (h : s.bb.length = s.capacity) :
    exec .final s = .next (s.withResult 0#32).complete := by
  rw [exec_final_of_le hblk h.le, h, finalBits_full (Nat.mul_mod_right 8 _), Nat.sub_self, State.appendBits,
    List.append_nil]
  rfl

end

/-- Settles O45: the bits of `finalBits`, and its length, after which the buffer is at the capacity. -/
theorem finalPadsToTheCapacity : Obligations.FinalPadsToTheCapacity := by
  refine ⟨by decide, fun s => ⟨fun hblk => finish_check_fails (List.length_eq_zero_iff.2 hblk), fun hblk hover => ?_,
    fun hblk hle => ?_⟩⟩
  · exact (finish_check_passes (mt List.length_eq_zero_iff.1 hblk)).trans (finish_check_fails hover)
  · have h8 : s.capacity % 8 = 0 := Nat.mul_mod_right 8 _
    have hlen : (finalBits s.bb.length s.capacity).length = s.capacity - s.bb.length := finalBits_length hle h8
    refine ⟨finalBits s.bb.length s.capacity, exec_final_of_le hblk hle, hlen, gap_sub_finalZeros_mod h8,
      fun k => finalBits_getD_of_lt, fun k => finalBits_getD_of_le h8, fun u hu => ?_⟩
    rw [exec_final_of_le hblk hle] at hu
    cases hu
    refine exec_final_full hblk ?_
    show (s.bb ++ finalBits s.bb.length s.capacity).length = s.capacity
    rw [List.length_append, hlen, Nat.add_sub_cancel' hle]

end Sys2Proof.Machine
end

section
/-! Segment payloads: the packing of each mode computes the payload of the statements (42_bit_buffer.md R200 to R203). -/

namespace Sys2Proof.Machine

open Sys2Proof.Spec

/-! ### Groups of a sequence -/

/-- The bits of the consecutive groups of `k` elements of a sequence, the last group possibly shorter. -/
def groupBits {α : Type} (k : Nat) (f : List α → List Bool) (xs : List α) : List Bool :=
  (List.range ((xs.length + (k - 1)) / k)).flatMap fun g => f ((xs.drop (k * g)).take k)

section
variable {α : Type} {k : Nat} (f : List α → List Bool)

theorem groupBits_nil (hk : 0 < k) : groupBits k f [] = [] := by
  rw [groupBits, List.length_nil, Nat.zero_add, Nat.div_eq_of_lt (by omega), List.range_zero, List.flatMap_nil]

/-- One group is taken off a sequence that is not empty. -/
theorem groupCount_succ (hk : 0 < k) {n : Nat} (hn : 0 < n) : (n + (k - 1)) / k = (n - k + (k - 1)) / k + 1 := by
  rcases Nat.le_total k n with h | h
  · rw [← Nat.add_div_right _ hk, show n + (k - 1) = n - k + (k - 1) + k by omega]
  · rw [show n + (k - 1) = n - 1 + k by omega, Nat.add_div_right _ hk, Nat.div_eq_of_lt (by omega),
      Nat.div_eq_of_lt (by omega)]

/-- The first group, then the groups of the rest. -/
theorem groupBits_of_ne_nil (hk : 0 < k) {xs : List α} (hxs : xs ≠ []) :
    groupBits k f xs = f (xs.take k) ++ groupBits k f (xs.drop k) := by
  simp only [groupBits, groupCount_succ hk (List.length_pos_of_ne_nil hxs), List.range_succ_eq_map, List.flatMap_cons,
    List.flatMap_map, List.length_drop, List.drop_drop, Nat.mul_zero, List.drop_zero, Nat.mul_succ, Nat.add_comm k]

end

/-! ### Numeric and Alphanumeric -/

/-- A check on every element, before a map. -/
theorem mapM_eq_ite {α β : Type} {f : α → Option β} {p : α → Prop} [DecidablePred p] {g : α → β}
    (h : ∀ a, f a = if p a then some (g a) else none) (xs : List α) :
    xs.mapM f = if ∀ a ∈ xs, p a then some (xs.map g) else none := by
  induction xs with
  | nil => simp
  | cons x xs ih =>
    by_cases hx : p x
    · simp only [List.mapM_cons, h x, ih, List.forall_mem_cons, hx, true_and]
      split_ifs <;> rfl
    · simp [h x, hx]

/-- The digits of a group as one number (42_bit_buffer.md R200). -/
def digitsValue (grp : List Byte) : Nat := grp.foldl (fun acc b => 10 * acc + (b.toNat - 0x30)) 0

theorem packDigits_eq_groupBits : ∀ data : List Byte, packDigits (data.map fun b => b.toNat - 0x30) =
    groupBits 3 (fun grp => bits (digitsValue grp) (3 * grp.length + 1)) data
  | [] => by rw [groupBits_nil _ (by decide)]; rfl
  | [a] => by simp [groupBits_of_ne_nil, groupBits_nil, packDigits, digitsValue, bitsOf_eq_bits]
  | [a, b] => by simp [groupBits_of_ne_nil, groupBits_nil, packDigits, digitsValue, bitsOf_eq_bits]
  | a :: b :: c :: rest => by
    have ih := packDigits_eq_groupBits rest
    have hvalue : digitsValue [a, b, c] = 100 * (a.toNat - 0x30) + 10 * (b.toNat - 0x30) + (c.toNat - 0x30) := by
      simp only [digitsValue, List.foldl_cons, List.foldl_nil]; omega
    rw [groupBits_of_ne_nil _ (by decide) (List.cons_ne_nil _ _)]
    simp [packDigits, hvalue, bitsOf_eq_bits, ih]

/-- The bits of a group of one or two indexes (42_bit_buffer.md R201). -/
def indexBits (idx : List Nat) : List Bool :=
  if idx.length = 2 then bits (idx.getD 0 0 * 45 + idx.getD 1 0) 11 else bits (idx.getD 0 0) 6

theorem packPairs_eq_groupBits (g : Byte → Nat) : ∀ data : List Byte, packPairs (data.map g) =
    groupBits 2 (fun grp => indexBits (grp.map g)) data
  | [] => by rw [groupBits_nil _ (by decide)]; rfl
  | [a] => by simp [groupBits_of_ne_nil, groupBits_nil, packPairs, indexBits, bitsOf_eq_bits]
  | a :: b :: rest => by
    have ih := packPairs_eq_groupBits g rest
    rw [groupBits_of_ne_nil _ (by decide) (List.cons_ne_nil _ _)]
    simp [packPairs, indexBits, bitsOf_eq_bits, ih]

theorem alnumIndex_eq (b : Byte) :
    alnumIndex b = if b.toNat ∈ alphabet then some (alphabet.idxOf b.toNat) else none := by
  have hbytes : ∀ n < 256, alnumIndex (BitVec.ofNat 8 n) =
      if n ∈ alphabet then some (alphabet.idxOf n) else none := by decide +kernel
  simpa only [BitVec.ofNat_toNat, BitVec.setWidth_eq] using hbytes b.toNat b.isLt

/-! ### Kanji -/

/-- The Shift-JIS code of pair `m` (42_bit_buffer.md R203). -/
def pairCode (data : List Byte) (m : Nat) : Nat :=
  (data.getD (2 * m) 0#8).toNat * 256 + (data.getD (2 * m + 1) 0#8).toNat

theorem pairCount_succ (hi lo : Byte) (rest : List Byte) : (hi :: lo :: rest).length / 2 = rest.length / 2 + 1 :=
  Nat.add_div_right rest.length Nat.two_pos

theorem packKanji_eq_flatMap : ∀ data : List Byte,
    packKanji data = (List.range (data.length / 2)).flatMap fun m => kanjiBits (pairCode data m)
  | [] => rfl
  | [_] => by simp [packKanji]
  | hi :: lo :: rest => by
    rw [packKanji, packKanji_eq_flatMap rest, pairCount_succ, List.range_succ_eq_map, List.flatMap_cons, List.flatMap_map]
    rfl

/-- A code less the base of its range (42_bit_buffer.md R203). -/
def rangeOffset (c : Nat) : Nat := if c ≤ 0x9FFC then c - 0x8140 else c - 0xC140

theorem kanjiBits_eq_bits (c : Nat) : kanjiBits c =
    if (0x8140 ≤ c ∧ c ≤ 0x9FFC) ∨ (0xE040 ≤ c ∧ c ≤ 0xEBBF) then
      bits (rangeOffset c / 256 * 0xC0 + rangeOffset c % 256) 13
    else [] := by
  by_cases h1 : 0x8140 ≤ c ∧ c ≤ 0x9FFC
  · rw [kanjiBits, if_pos h1, if_pos (.inl h1), rangeOffset, if_pos h1.2, bitsOf_eq_bits]
  · by_cases h2 : 0xE040 ≤ c ∧ c ≤ 0xEBBF
    · rw [kanjiBits, if_neg h1, if_pos h2, if_pos (.inr h2), rangeOffset, if_neg (by omega), bitsOf_eq_bits]
    · rw [kanjiBits, if_neg h1, if_neg h2, if_neg (not_or.2 ⟨h1, h2⟩)]

/-! ### The payload -/

theorem payload_zero (data : List Byte) : payload 0 data = (data.mapM digitValue).map packDigits := by
  rw [payload, if_pos rfl, mapM_eq_ite (f := digitValue) fun _ => rfl]
  split_ifs
  · rw [Option.map_some, packDigits_eq_groupBits]; rfl
  · rfl

theorem payload_one (data : List Byte) : payload 1 data = (data.mapM alnumIndex).map packPairs := by
  rw [payload, if_neg (by decide), if_pos rfl, mapM_eq_ite alnumIndex_eq]
  split_ifs
  · rw [Option.map_some, packPairs_eq_groupBits]; rfl
  · rfl

theorem payload_two (data : List Byte) : payload 2 data = some (packBytes data) := by
  simp only [packBytes, bitsOf_eq_bits]
  rfl

theorem payload_three (data : List Byte) : payload 3 data = some (packKanji data) := by
  simp only [packKanji_eq_flatMap, kanjiBits_eq_bits]
  rfl

/-- The model's packing is the payload of the statements, where that exists, else DOMAIN. -/
theorem pack_eq_payload {mode : Nat} (hmode : mode ≤ 3) (data : List Byte) :
    pack mode data = (payload mode data).elim (.error .domain) .ok := by
  obtain rfl | rfl | rfl | rfl : mode = 0 ∨ mode = 1 ∨ mode = 2 ∨ mode = 3 := by omega
  · rw [payload_zero, pack, if_pos rfl]
    cases data.mapM digitValue <;> rfl
  · rw [payload_one, pack, if_neg (by decide), if_pos rfl]
    cases data.mapM alnumIndex <;> rfl
  · rw [payload_two]
    rfl
  · rw [payload_three]
    rfl

end Sys2Proof.Machine
end

section
/-! SEG: the bits of a segment, what the command answers, and the number of bits in each mode. -/

namespace Sys2Proof.Machine

open Sys2Proof.Spec

/-! ### The segment -/

theorem lenBits_eq_lengthWidth {mode : Nat} (hmode : mode ≤ 3) (ver : Nat) :
    lenBits mode (band ver) = lengthWidth mode ver := by
  unfold band lengthWidth
  interval_cases mode <;> split_ifs <;> rfl

theorem modeInd_eq_two_pow {mode : Nat} (hmode : mode ≤ 3) : modeInd mode = 2 ^ mode := by
  interval_cases mode <;> rfl

theorem segBits_eq_segment {mode : Nat} (hmode : mode ≤ 3) (n ver : Nat) (pay : List Bool) :
    segBits mode n ver pay = Spec.segment mode n ver pay := by
  rw [segBits, modeInd_eq_two_pow hmode, lenBits_eq_lengthWidth hmode, bitsOf_eq_bits, bitsOf_eq_bits]
  rfl

theorem segment_length (mode n ver : Nat) (pay : List Bool) :
    (Spec.segment mode n ver pay).length = 4 + lengthWidth mode ver + pay.length := by
  simp only [Spec.segment, List.length_append, bits_length]

/-! ### What SEG answers -/

section
variable {s : State}

/-- The arguments that SEG's checks before the payload let pass (42_bit_buffer.md R199). -/
structure SegArguments (s : State) : Prop where
  mode : s.u0 ≤ 3
  version : 1 ≤ s.u3 ∧ s.u3 ≤ 40
  range : s.u1 + s.u2 ≤ 4096
  evenKanji : ¬ (s.u0 = 3 ∧ s.u2 % 2 = 1)

/-- The bytes of the segment SEG encodes (42_bit_buffer.md R199). -/
def segData (s : State) : List Byte := s.inbufRange s.u1 s.u2

@[simp] theorem segData_length (s : State) : (segData s).length = s.u2 := by
  rw [segData, State.inbufRange, List.length_map, List.length_range]

/-- A check that fails where, past it, the command would fail with the same code. -/
theorem finish_check_fails_of {c : Prop} [Decidable c] {k : ErrKind} {r : Except ErrKind State}
    (h : ¬ c → finish s r = .next (s.fail k)) : finish s (if c then .error k else r) = .next (s.fail k) := by
  by_cases hc : c
  · exact finish_check_fails hc
  · rw [finish_check_passes hc, h hc]

theorem exec_seg_bad_arguments (h : ¬ SegArguments s) : exec .seg s = .next (s.fail .domain) :=
  finish_check_fails_of fun hmode => finish_check_fails_of fun hver => finish_check_fails_of fun hrange =>
    finish_check_fails <| by_contra fun hodd => h ⟨not_lt.1 hmode, by omega, not_lt.1 hrange, hodd⟩

/-- SEG's last check and its effects, for the payload `pay` (42_bit_buffer.md R199). -/
def appendSegment (s : State) (pay : List Bool) : Except ErrKind State :=
  if 32768 < s.bb.length + (Spec.segment s.u0 s.u2 s.u3 pay).length then .error .resource
  else .ok ((s.appendBits (Spec.segment s.u0 s.u2 s.u3 pay)).withCount (Spec.segment s.u0 s.u2 s.u3 pay).length)

/-- Past the checks of the arguments, the payload decides. -/
theorem exec_seg_of_arguments (h : SegArguments s) :
    exec .seg s = finish s ((payload s.u0 (segData s)).elim (.error .domain) (appendSegment s)) := by
  have hpack : pack s.u0 (s.inbufRange s.u1 s.u2) = (payload s.u0 (segData s)).elim (.error .domain) .ok :=
    pack_eq_payload h.mode (segData s)
  have hver : ¬ (s.u3 < 1 ∨ 40 < s.u3) := by have := h.version; omega
  rw [exec, execSeg, finish_check_passes (not_lt.2 h.mode), finish_check_passes hver,
    finish_check_passes (not_lt.2 h.range), finish_check_passes h.evenKanji, hpack]
  cases payload s.u0 (segData s) with
  | none => rfl
  | some pay => simp only [Option.elim, segBits_eq_segment h.mode]; rfl

/-- SEG fails, or appends the segment of a payload (42_bit_buffer.md R199). -/
theorem exec_seg_cases (s : State) : (∃ k, exec .seg s = .next (s.fail k)) ∨
    ∃ pay, payload s.u0 (segData s) = some pay ∧
      s.bb.length + (Spec.segment s.u0 s.u2 s.u3 pay).length ≤ 32768 ∧
      exec .seg s = .next ((s.appendBits (Spec.segment s.u0 s.u2 s.u3 pay)).withCount
        (Spec.segment s.u0 s.u2 s.u3 pay).length).complete := by
  by_cases hargs : SegArguments s
  · have hexec := exec_seg_of_arguments hargs
    cases hpay : payload s.u0 (segData s) with
    | none => rw [hpay] at hexec; exact .inl ⟨_, hexec⟩
    | some pay =>
      rw [hpay] at hexec
      by_cases hfull : 32768 < s.bb.length + (Spec.segment s.u0 s.u2 s.u3 pay).length
      · exact .inl ⟨_, hexec.trans (finish_check_fails hfull)⟩
      · exact .inr ⟨pay, rfl, not_lt.1 hfull, hexec.trans (finish_check_passes hfull)⟩
  · exact .inl ⟨_, exec_seg_bad_arguments hargs⟩

theorem exec_seg_success {t : State} (h : exec .seg s = .next t) (hok : t.err = false) :
    ∃ pay, payload s.u0 (segData s) = some pay ∧
      s.bb.length + (Spec.segment s.u0 s.u2 s.u3 pay).length ≤ 32768 ∧
      t.bb = s.bb ++ Spec.segment s.u0 s.u2 s.u3 pay ∧
      t.result = BitVec.ofNat 32 (Spec.segment s.u0 s.u2 s.u3 pay).length := by
  obtain ⟨k, hfail⟩ | ⟨pay, hpay, hfit, hseg⟩ := exec_seg_cases s
  · cases hfail.symm.trans h
    cases hok
  · cases hseg.symm.trans h
    exact ⟨pay, hpay, hfit, rfl, rfl⟩

end

/-- Settles O43: `exec_seg_bad_arguments`, then the payload and the bound on the length decide. -/
theorem segAppendsOneSegment : Obligations.SegAppendsOneSegment := by
  refine ⟨by decide, fun s => ⟨fun hbad => ?_, fun hmode hver1 hver40 hrange hodd => ?_⟩⟩
  · refine exec_seg_bad_arguments fun ⟨hmode, hver, hrange, hodd⟩ => ?_
    simp only [State.u0, State.u1, State.u2, State.u3] at hmode hver hrange hodd
    omega
  · have hexec := exec_seg_of_arguments ⟨hmode, ⟨hver1, hver40⟩, hrange, hodd⟩
    refine ⟨fun hnone => ?_, fun pay hpay => ?_⟩
    · rw [segData, State.inbufRange, hnone] at hexec
      exact hexec
    · rw [segData, State.inbufRange, hpay] at hexec
      exact ⟨fun hfit => hexec.trans (finish_check_passes (not_lt.2 hfit)),
        fun hfull => hexec.trans (finish_check_fails hfull)⟩

/-! ### The number of bits -/

theorem length_of_mapM_eq_some {α β : Type} {f : α → Option β} {xs : List α} {ys : List β}
    (h : xs.mapM f = some ys) : ys.length = xs.length := by
  induction xs generalizing ys with
  | nil => simp_all
  | cons x xs ih =>
    rw [List.mapM_cons] at h
    obtain ⟨y, _, h⟩ := Option.bind_eq_some_iff.1 h
    obtain ⟨zs, hzs, h⟩ := Option.bind_eq_some_iff.1 h
    cases h
    rw [List.length_cons, List.length_cons, ih hzs]

theorem packDigits_length : ∀ ds : List Nat,
    (packDigits ds).length = 10 * (ds.length / 3) + [0, 4, 7].getD (ds.length % 3) 0
  | [] => rfl
  | [_] => by simp [packDigits]
  | [_, _] => by simp [packDigits]
  | _ :: _ :: _ :: rest => by
    have hgroup : (rest.length + 3) / 3 = rest.length / 3 + 1 := Nat.add_div_right _ (by decide)
    rw [packDigits, List.length_append, packDigits_length rest, bitsOf_length]
    simp only [List.length_cons, hgroup, Nat.add_assoc, Nat.reduceAdd, Nat.add_mod_right]
    omega

theorem packPairs_length : ∀ is : List Nat, (packPairs is).length = 11 * (is.length / 2) + 6 * (is.length % 2)
  | [] => rfl
  | [_] => by simp [packPairs]
  | _ :: _ :: rest => by
    rw [packPairs, List.length_append, packPairs_length rest, bitsOf_length, List.length_cons, List.length_cons]
    omega

theorem packBytes_length (data : List Byte) : (packBytes data).length = 8 * data.length := by
  simp [packBytes, List.length_flatMap, Nat.mul_comm]

/-- The sum of a constant over the elements that satisfy `p`. -/
theorem sum_map_ite_eq_mul_length_filter {α : Type} (c : Nat) (p : α → Prop) [DecidablePred p] (xs : List α) :
    (xs.map fun x => if p x then c else 0).sum = c * (xs.filter fun x => decide (p x)).length := by
  induction xs with
  | nil => rfl
  | cons x xs ih => by_cases h : p x <;> simp [h, ih, Nat.mul_succ, Nat.add_comm c]

theorem packKanji_length (data : List Byte) : (packKanji data).length = 13 * keptPairs data := by
  simp only [packKanji_eq_flatMap, List.length_flatMap, kanjiBits_length]
  exact sum_map_ite_eq_mul_length_filter ..

section
variable {mode : Nat} {data : List Byte} {pay : List Bool}

theorem payload_length_of_numeric (hmode : mode = 0) (h : payload mode data = some pay) :
    pay.length = 10 * (data.length / 3) + [0, 4, 7].getD (data.length % 3) 0 := by
  rw [hmode, payload_zero] at h
  obtain ⟨ds, hds, rfl⟩ := Option.map_eq_some_iff.1 h
  rw [packDigits_length, length_of_mapM_eq_some hds]

theorem payload_length_of_alphanumeric (hmode : mode = 1) (h : payload mode data = some pay) :
    pay.length = 11 * (data.length / 2) + 6 * (data.length % 2) := by
  rw [hmode, payload_one] at h
  obtain ⟨is, his, rfl⟩ := Option.map_eq_some_iff.1 h
  rw [packPairs_length, length_of_mapM_eq_some his]

theorem payload_length_of_byte (hmode : mode = 2) (h : payload mode data = some pay) : pay.length = 8 * data.length := by
  rw [hmode, payload_two] at h
  cases h
  exact packBytes_length data

theorem payload_length_of_kanji (hmode : mode = 3) (h : payload mode data = some pay) : pay.length = 13 * keptPairs data := by
  rw [hmode, payload_three] at h
  cases h
  exact packKanji_length data

end

/-- Settles O44: a successful SEG appends a segment (`exec_seg_success`), whose payload has the length of its packing. -/
theorem segResultCountsItsBits : Obligations.SegResultCountsItsBits := by
  intro s t _ hexec hok
  obtain ⟨pay, hpay, hfit, hbb, hres⟩ := exec_seg_success hexec hok
  have hcount : t.result.toNat = (Spec.segment s.u0 s.u2 s.u3 pay).length := by
    rw [hres, BitVec.toNat_ofNat, Nat.mod_eq_of_lt (by omega)]
  have hresult : t.result.toNat = 4 + lengthWidth s.u0 s.u3 + pay.length := hcount.trans (segment_length ..)
  refine ⟨fun h0 => ?_, fun h1 => ?_, fun h2 => ?_, fun h3 => ?_, ?_⟩
  · rw [hresult, payload_length_of_numeric h0 hpay, segData_length, Nat.add_assoc _ (10 * _)]
  · rw [hresult, payload_length_of_alphanumeric h1 hpay, segData_length, Nat.add_assoc _ (11 * _)]
  · rw [hresult, payload_length_of_byte h2 hpay, segData_length]
  · exact hresult.trans (congrArg _ (payload_length_of_kanji h3 hpay))
  · rw [hbb, List.length_append, hcount]

end Sys2Proof.Machine
end

section
/-! The block list: BLKCLR, BLKADD, BLKSEL and CAPBITS. -/

namespace Sys2Proof.Machine

open Sys2Proof.Spec

/-- Settles O46: BLKADD's checks of the shape come before those of the bounds; BLKCLR and CAPBITS make none. -/
theorem blockListCommands : Obligations.BlockListCommands := by
  refine ⟨by decide, fun s => ⟨rfl, rfl, fun hshape hfit => ?_, finish_check_fails, fun hshape hfull => ?_⟩⟩
  · obtain ⟨hcount, hdata, htotal⟩ : _ ∧ _ ∧ _ := by rwa [not_or, not_or] at hfit
    exact (finish_check_passes hshape).trans <| (finish_check_passes hcount).trans <|
      (finish_check_passes hdata).trans (finish_check_passes htotal)
  · refine (finish_check_passes hshape).trans ?_
    exact finish_check_fails_of fun hcount => finish_check_fails_of fun hdata =>
      finish_check_fails ((hfull.resolve_left hcount).resolve_left hdata)

/-! ### The table of layouts -/

/-- Every layout of `RS_BLOCK_TABLE` is within the bounds of 10_state.md R53, and its blocks share one EC count. -/
theorem rsBlockTable_bounds : ∀ groups ∈ rsBlockTable,
    1 ≤ (expand groups).length ∧ (expand groups).length ≤ 81 ∧ sumData (expand groups) ≤ 2956 ∧
      sumTotal (expand groups) ≤ 3706 ∧ ∃ e < 255, ∀ g ∈ groups, g.total = g.data + e := by
  decide +kernel

theorem expand_eq_flatten (groups : List Group) :
    expand groups = (groups.map fun g => List.replicate g.count (Block.mk g.total g.data)).flatten := List.flatMap_def

/-- An entry for every version and level (10_state.md R52). -/
theorem rsBlockTable_getElem? {ver ecl : Nat} (h1 : 1 ≤ ver) (h40 : ver ≤ 40) (h3 : ecl ≤ 3) :
    rsBlockTable[(ver - 1) * 4 + ecl]? = some (rsBlockEntry ver ecl) := by
  have hlen : rsBlockTable.length = 160 := rfl
  have hlt : (ver - 1) * 4 + ecl < rsBlockTable.length := by omega
  rw [rsBlockEntry, List.getD_eq_getElem _ _ hlt, List.getElem?_eq_getElem hlt]

section
variable {s : State}

theorem exec_blksel_of_mem (h1 : 1 ≤ s.u0) (h40 : s.u0 ≤ 40) (h3 : s.u1 ≤ 3) :
    exec .blksel s = .next ((s.withBlocks (expand (rsBlockEntry s.u0 s.u1))).withCount
      (expand (rsBlockEntry s.u0 s.u1)).length).complete := by
  obtain ⟨-, hlen, hdata, htotal, -⟩ := rsBlockTable_bounds _ (List.mem_of_getElem? (rsBlockTable_getElem? h1 h40 h3))
  have hver : ¬ (s.u0 < 1 ∨ 40 < s.u0) := by omega
  refine (finish_check_passes hver).trans <| (finish_check_passes (not_lt.2 h3)).trans (finish_check_passes ?_)
  simp only [Config.blkMax, Config.bitbufBits, Config.cwbufBytes]
  omega

theorem exec_blksel_domain (h : s.u0 < 1 ∨ 40 < s.u0 ∨ 3 < s.u1) : exec .blksel s = .next (s.fail .domain) :=
  finish_check_fails_of fun hver => finish_check_fails ((or_assoc.2 h).resolve_left hver)

end

/-- Settles O47: the layouts' bounds by `rsBlockTable_bounds`, the shape of their blocks by `expand_rsBlockEntry_shape`. -/
theorem blkselSelectsALayoutWithinBounds : Obligations.BlkselSelectsALayoutWithinBounds := by
  refine ⟨by decide, fun s h1 h40 h3 => ?_, fun s => exec_blksel_domain⟩
  have hentry := rsBlockTable_getElem? h1 h40 h3
  obtain ⟨hne, hlen, hdata, htotal, e, -, he⟩ := rsBlockTable_bounds _ (List.mem_of_getElem? hentry)
  refine ⟨_, _, hentry, expand_eq_flatten _, exec_blksel_of_mem h1 h40 h3, hne, hlen, hdata, htotal, e, fun b hb => ?_⟩
  obtain ⟨hdata1, -, htotal255⟩ := expand_rsBlockEntry_shape _ _ b hb
  obtain ⟨g, hg, rfl⟩ := mem_expand hb
  exact ⟨he g hg, hdata1, htotal255⟩

end Sys2Proof.Machine
end

section
/-! The EC codewords of a block: they are the remainder by the generator, the only sequence of their length that is. -/

namespace Sys2Proof.Machine

open Sys2Proof.Spec

/-! ### Sequences and their coefficients -/

theorem xor_xor_xor_comm (a b c d : Byte) : a ^^^ b ^^^ (c ^^^ d) = a ^^^ c ^^^ (b ^^^ d) := by ac_rfl

/-- Sequences of one length with the same coefficients are equal. -/
theorem eq_of_coeff_eq {p r : List Byte} (hlen : p.length = r.length) (h : ∀ k, coeff p k = coeff r k) : p = r := by
  rw [← List.reverse_inj]
  refine List.ext_getElem (by simpa) fun k hp hr => ?_
  rw [← List.getD_eq_getElem _ 0#8, ← List.getD_eq_getElem _ 0#8]
  exact h k

theorem coeff_zipWith_xor {p r : List Byte} (hlen : p.length = r.length) (k : Nat) :
    coeff (List.zipWith (· ^^^ ·) p r) k = coeff p k ^^^ coeff r k := by
  rw [coeff, List.reverse_zipWith hlen]
  rcases Nat.lt_or_ge k p.length with hk | hk
  · rw [List.getD_eq_getElem _ _ (by simpa [← hlen]), List.getElem_zipWith]
    simp only [coeff, List.getD_eq_getElem?_getD]
    rw [List.getElem?_eq_getElem (by simpa), List.getElem?_eq_getElem (by simpa [← hlen])]
    rfl
  · rw [List.getD_eq_default _ _ (by simp [hk]), coeff_of_length_le hk, coeff_of_length_le (hlen ▸ hk), BitVec.xor_self]

/-- The sum of two polynomials. -/
theorem exists_coeff_xor (p r : List Byte) : ∃ q, ∀ k, coeff q k = coeff p k ^^^ coeff r k := by
  refine ⟨List.zipWith (· ^^^ ·) (zeros (r.length - p.length) ++ p) (zeros (p.length - r.length) ++ r), fun k => ?_⟩
  have hlen : (zeros (r.length - p.length) ++ p).length = (zeros (p.length - r.length) ++ r).length := by
    simp only [List.length_append, zeros_length]
    omega
  rw [coeff_zipWith_xor hlen, coeff_zeros_append, coeff_zeros_append]

/-- The sum of two multiples of `b` is a multiple of `b`. -/
theorem exists_productCoeff_xor (p r b : List Byte) :
    ∃ q, ∀ k, productCoeff q b k = productCoeff p b k ^^^ productCoeff r b k := by
  obtain ⟨q, hq⟩ := exists_coeff_xor p r
  refine ⟨q, fun k => ?_⟩
  simp only [productCoeff, ← gmul_eq_fieldMul, hq, gmul_xor_left, xorSum_xor]

/-- A product has no coefficient from the sum of the lengths on. -/
theorem productCoeff_of_length_le {q b : List Byte} {k : Nat} (h : q.length + b.length ≤ k + 1) :
    productCoeff q b k = 0#8 := by
  refine xorSum_eq_zero fun i hi => ?_
  rw [← gmul_eq_fieldMul]
  rcases Nat.lt_or_ge i q.length with hlt | hge
  · rw [coeff_of_length_le (p := b) (by omega), gmul_zero_right]
  · rw [coeff_of_length_le hge, gmul_zero_left]

/-- A multiple of `b` that is shorter than `b` is 0. -/
theorem productCoeff_eq_zero_of_short {q b r : List Byte} (hb : b.headD 0#8 ≠ 0#8) (hr : r.length < b.length)
    (h : ∀ k, productCoeff q b k = coeff r k) (k : Nat) : productCoeff q b k = 0#8 := by
  obtain ⟨y, ys, rfl⟩ := List.exists_cons_of_ne_nil (ne_nil_of_head hb)
  induction q with
  | nil => exact productCoeff_nil _ k
  | cons c q ih =>
    have hcons (k : Nat) := productCoeff_cons c q (y :: ys) k
    have hlead : gmul c y = 0#8 := by
      have htop := h (q.length + ys.length)
      rw [hcons, if_pos (Nat.le_add_right _ _), Nat.add_sub_cancel_left, productCoeff_of_length_le (by simp; omega),
        BitVec.xor_zero, coeff_cons, if_pos rfl, coeff_of_length_le le_rfl, BitVec.xor_zero,
        coeff_of_length_le (by simp at hr; omega)] at htop
      exact htop
    have hc : c = 0#8 := (gmul_eq_zero.1 hlead).resolve_right hb
    have hq (k : Nat) : productCoeff (c :: q) (y :: ys) k = productCoeff q (y :: ys) k := by
      rw [hcons, hc, gmul_zero_left, ite_self, BitVec.zero_xor]
    rw [hq]
    exact ih fun k => (hq k).symm.trans (h k)

/-! ### The remainder by the generator -/

theorem genPoly_head_ne_zero (e : Nat) : (genPoly e).headD 0#8 ≠ 0#8 := by
  rw [(genPoly_shape e).2]
  decide

/-- The shifted data, stripped or not, is one polynomial (43_reed_solomon.md R235). -/
theorem coeff_construct (data : List Byte) (e k : Nat) :
    coeff (construct data e) k = coeff (data ++ List.replicate e 0#8) k := by
  conv_rhs => rw [strip_spec data, List.append_assoc, coeff_zeros_append]
  rfl

/-- `ecOf` is the remainder with zeros in front, up to `e` coefficients (43_reed_solomon.md R235). -/
theorem ecOf_eq_zeros_append (data : List Byte) (e : Nat) : ∃ m, m.length ≤ e ∧
    modLoop ((construct data e).length + 1) (construct data e) (genPoly e) = .ok m ∧
    ecOf data e = .ok (zeros (e - m.length) ++ m) := by
  have hhead := genPoly_head_ne_zero e
  obtain ⟨m, hm, hshort, -⟩ := polyMod_ok (mt List.length_eq_zero_iff.1 (ne_nil_of_head hhead)) hhead
    (construct_ready data e)
  rw [(genPoly_shape e).1, Nat.lt_succ_iff] at hshort
  refine ⟨m, hshort, (polyMod_eq_modLoop _ hhead).symm.trans hm, ?_⟩
  rw [ecOf, hm]
  refine congrArg Except.ok (List.ext_getElem (by simp [hshort]) fun i hi _ => ?_)
  rw [List.getElem_map, List.getElem_range, ← List.getD_eq_getElem (zeros _ ++ m) 0#8]
  rw [List.length_map, List.length_range] at hi
  split
  · rw [List.getD_append_right _ _ _ _ (by rw [zeros_length]; omega), zeros_length]
    congr 1
    omega
  · rw [List.getD_append _ _ _ _ (by rw [zeros_length]; omega), zeros_getD]

/-- The EC codewords are the remainder by the generator (43_reed_solomon.md R235, R239). -/
theorem isEc_of_ecOf {data ec : List Byte} {e : Nat} (h : ecOf data e = .ok ec) : IsEc data e ec := by
  obtain ⟨m, hlen, hloop, hec⟩ := ecOf_eq_zeros_append data e
  cases hec.symm.trans h
  obtain ⟨q, -, hq⟩ := modLoop_quotient (genPoly_head_ne_zero e) hloop
  refine ⟨by simp [hlen], q, fun k => ?_⟩
  rw [← coeff_construct, hq, coeff_zeros_append, genPoly_eq_generator]

/-- Remainders add up as their data does (43_reed_solomon.md R239 item 3). -/
theorem isEc_xor {d1 d2 e1 e2 : List Byte} {e : Nat} (h1 : IsEc d1 e e1) (h2 : IsEc d2 e e2)
    (hlen : d1.length = d2.length) : IsEc (List.zipWith (· ^^^ ·) d1 d2) e (List.zipWith (· ^^^ ·) e1 e2) := by
  obtain ⟨hl1, q1, hq1⟩ := h1
  obtain ⟨hl2, q2, hq2⟩ := h2
  obtain ⟨q, hq⟩ := exists_productCoeff_xor q1 q2 (generator e)
  refine ⟨by simp [hl1, hl2], q, fun k => ?_⟩
  have hzip : List.zipWith (· ^^^ ·) d1 d2 ++ List.replicate e 0#8 =
      List.zipWith (· ^^^ ·) (d1 ++ List.replicate e 0#8) (d2 ++ List.replicate e 0#8) := by
    rw [List.zipWith_append hlen, List.zipWith_replicate', BitVec.xor_self]
  rw [hzip, coeff_zipWith_xor (by simp [hlen]), coeff_zipWith_xor (hl1.trans hl2.symm), hq1, hq2, hq,
    xor_xor_xor_comm]

/-- The EC codewords of a block are unique: the difference of two candidates is a multiple of the generator, and shorter
than it. -/
theorem isEc_unique {data ec ec' : List Byte} {e : Nat} (h : IsEc data e ec) (h' : IsEc data e ec') : ec = ec' := by
  obtain ⟨hl, q1, hq1⟩ := h
  obtain ⟨hl', q2, hq2⟩ := h'
  have hlen : ec.length = ec'.length := hl.trans hl'.symm
  obtain ⟨q, hq⟩ := exists_productCoeff_xor q1 q2 (generator e)
  have hdiff (k : Nat) : productCoeff q (genPoly e) k = coeff (List.zipWith (· ^^^ ·) ec ec') k := by
    rw [genPoly_eq_generator, hq, coeff_zipWith_xor hlen, ← BitVec.xor_eq_zero_iff, xor_xor_xor_comm, ← hq1, hq2,
      BitVec.xor_self]
  have hshort : (List.zipWith (· ^^^ ·) ec ec').length < (genPoly e).length := by simp [hl, hl', (genPoly_shape e).1]
  have hzero := productCoeff_eq_zero_of_short (genPoly_head_ne_zero e) hshort hdiff
  refine eq_of_coeff_eq hlen fun k => ?_
  rw [← BitVec.xor_eq_zero_iff, ← coeff_zipWith_xor hlen, ← hdiff, hzero]

theorem ecOf_eq_ok_iff {data ec : List Byte} {e : Nat} : ecOf data e = .ok ec ↔ IsEc data e ec := by
  refine ⟨isEc_of_ecOf, fun h => ?_⟩
  obtain ⟨ec', hec, -⟩ := ecOf_ok data e
  rw [hec, isEc_unique h (isEc_of_ecOf hec)]

/-- Settles O52: the XOR of the EC codewords is the remainder of the XOR of the data (`isEc_xor`), and nothing else is. -/
theorem ecCodewordsAreLinear : Obligations.EcCodewordsAreLinear := by
  intro d1 d2 e hlen
  obtain ⟨e1, h1, -⟩ := ecOf_ok d1 e
  obtain ⟨e2, h2, -⟩ := ecOf_ok d2 e
  exact ⟨e1, e2, h1, h2, ecOf_eq_ok_iff.2 (isEc_xor (isEc_of_ecOf h1) (isEc_of_ecOf h2) hlen)⟩

/-! ### RSBLK -/

section
variable {s : State} {pd : PReg}

theorem bbBytes_eq_byteView (bb : List Bool) (off n : Nat) :
    bbBytes bb off n = (List.range n).map fun k => byteView bb (off + k) := by
  simp only [bbBytes, bbByte_eq_byteView]

theorem exec_rsblk_of_ecOf {ec : List Byte} (hsize : s.u1 + s.u2 ≤ 255) (hbits : 8 * (s.u0 + s.u1) ≤ s.bb.length)
    (hec : ecOf (s.bbRange s.u0 s.u1) s.u2 = .ok ec) : exec (.rsblk pd) s = .next (s.withPoly pd ec).complete := by
  refine (finish_check_passes (not_lt.2 hsize)).trans <| (finish_check_passes (not_lt.2 hbits)).trans ?_
  rw [hec, finish_ok]

theorem exec_rsblk_domain (h : 255 < s.u1 + s.u2 ∨ s.bb.length < 8 * (s.u0 + s.u1)) :
    exec (.rsblk pd) s = .next (s.fail .domain) :=
  finish_check_fails_of fun hsize => finish_check_fails (h.resolve_left hsize)

/-- A step of RSBLK that does not fail has stored the EC codewords of a block inside the bounds of R235. -/
theorem exec_rsblk_success {t : State} (h : exec (.rsblk pd) s = .next t) (herr : t.err = false) :
    s.u1 + s.u2 ≤ 255 ∧ ecOf (s.bbRange s.u0 s.u1) s.u2 = .ok (t.poly.get pd) := by
  by_cases hfail : 255 < s.u1 + s.u2 ∨ s.bb.length < 8 * (s.u0 + s.u1)
  · cases (exec_rsblk_domain hfail).symm.trans h
    cases herr
  · obtain ⟨hsize, hbits⟩ := not_or.1 hfail
    obtain ⟨ec, hec, -⟩ := ecOf_ok (s.bbRange s.u0 s.u1) s.u2
    cases (exec_rsblk_of_ecOf (not_lt.1 hsize) (not_lt.1 hbits) hec).symm.trans h
    refine ⟨not_lt.1 hsize, hec.trans (congrArg _ ?_)⟩
    rw [State.complete_poly, State.withPoly_poly, PolyFile.get_set_same]

end

/-- Settles O48: the stored codewords are the remainder (`isEc_of_ecOf`); both checks fail with DOMAIN. -/
theorem rsblkStoresTheRemainder : Obligations.RsblkStoresTheRemainder := by
  intro s pd
  refine ⟨assemble_pd_toNat _ pd, fun hsize hbits => ?_, exec_rsblk_domain⟩
  obtain ⟨ec, hec, -⟩ := ecOf_ok (s.bbRange s.u0 s.u1) s.u2
  refine ⟨ec, exec_rsblk_of_ecOf hsize hbits hec, ?_⟩
  rw [← bbBytes_eq_byteView]
  exact isEc_of_ecOf hec

end Sys2Proof.Machine
end

section
/-! Syndromes: RSSYN, and that a block followed by its EC codewords vanishes at the roots of the generator. -/

namespace Sys2Proof.Machine

open Sys2Proof.Spec

/-! ### RSSYN -/

/-- Horner's rule gives the values at the powers of 2, whose exponents the statement has as integers. -/
theorem syndromes_eq_values (p : List Byte) (e : Nat) :
    syndromes p e = ((List.range e : List Nat) : List Int).map fun j => value p (gexp j) := by
  simp only [bind_pure_comp, List.map_eq_map, List.map_map]
  refine List.map_congr_left fun j _ => ?_
  rw [polyEval_eq_value]
  rfl

/-- The flag of RSSYN as a word (43_reed_solomon.md R238). -/
theorem ofNat_all_zero (p : List Byte) :
    BitVec.ofNat 32 (if p.all (· == 0#8) then 1 else 0) = if ∀ x ∈ p, x = 0#8 then 1#32 else 0#32 := by
  simp only [List.all_eq_true, beq_iff_eq, apply_ite (BitVec.ofNat 32)]

theorem exec_rssyn_of_le {s : State} {pd pa : PReg} (h : s.u0 ≤ 512) : exec (.rssyn pd pa) s =
    .next ((s.withPoly pd (syndromes (s.polyReg pa) s.u0)).withResult
      (if ∀ x ∈ syndromes (s.polyReg pa) s.u0, x = 0#8 then 1#32 else 0#32)).complete := by
  rw [← ofNat_all_zero]
  exact finish_check_passes (not_lt.2 h)

/-- Settles O50: the syndromes are values (`syndromes_eq_values`); RSSYN's one check is their number. -/
theorem rssynStoresTheSyndromes : Obligations.RssynStoresTheSyndromes := by
  intro s pd pa
  refine ⟨assemble_regs_toNat _ pd pa .p0, fun h => ?_, finish_check_fails⟩
  rw [← syndromes_eq_values]
  exact exec_rssyn_of_le h

/-! ### Codewords -/

section
variable (x : Byte)

theorem polyEval_append (p r : List Byte) :
    polyEval (p ++ r) x = gmul (polyEval p x) (fieldPow x r.length) ^^^ polyEval r x := by
  induction p with
  | nil => rw [List.nil_append, polyEval_nil, gmul_zero_left, BitVec.zero_xor]
  | cons c p ih =>
    rw [List.cons_append, polyEval_cons, polyEval_cons, ih, List.length_append, fieldPow_add, gmul_xor_left, gmul_assoc,
      BitVec.xor_assoc]

theorem polyEval_zeros_append (n : Nat) (p : List Byte) : polyEval (zeros n ++ p) x = polyEval p x := by
  rw [polyEval_append, polyEval_zeros, gmul_zero_left, BitVec.zero_xor]

theorem polyEval_strip (p : List Byte) : polyEval (strip p) x = polyEval p x := by
  conv_rhs => rw [strip_spec p, polyEval_zeros_append]

end

/-- At a root of the divisor, dividend and remainder have the same value. -/
theorem polyEval_modLoop {x : Byte} {fuel : Nat} {a b r : List Byte} (hroot : polyEval b x = 0#8)
    (h : modLoop fuel a b = .ok r) : polyEval r x = polyEval a x := by
  induction fuel generalizing a with
  | zero => cases h; rfl
  | succ fuel ih =>
    rw [modLoop] at h
    split_ifs at h with hlt
    · cases h; rfl
    · obtain ⟨c, hpass⟩ := modPass_eq a b
      rw [ih h, hpass, polyEval_strip, polyEval_xorInto _ (by rw [List.length_map]; exact not_lt.1 hlt),
        polyEval_map_gmul, hroot, gmul_zero_right, gmul_zero_left, BitVec.xor_zero]

/-- A block followed by its EC codewords vanishes at every root of the generator (43_reed_solomon.md R239). -/
theorem polyEval_codeword {data ec : List Byte} {e : Nat} (h : ecOf data e = .ok ec) {x : Byte}
    (hroot : polyEval (genPoly e) x = 0#8) : polyEval (data ++ ec) x = 0#8 := by
  obtain ⟨m, hlen, hloop, hec⟩ := ecOf_eq_zeros_append data e
  have hrem := polyEval_modLoop hroot hloop
  cases hec.symm.trans h
  rw [construct, polyEval_append, polyEval_zeros, BitVec.xor_zero, polyEval_strip, zeros_length] at hrem
  rw [polyEval_append, polyEval_zeros_append, hrem, List.length_append, zeros_length, Nat.sub_add_cancel hlen,
    BitVec.xor_self]

theorem syndromes_codeword {data ec : List Byte} {e : Nat} (h : ecOf data e = .ok ec) :
    syndromes (data ++ ec) e = List.replicate e 0#8 := by
  refine List.eq_replicate_iff.2 ⟨syndromes_length _ _, fun c hc => ?_⟩
  obtain ⟨j, hj, rfl⟩ := List.mem_map.1 hc
  have hroot := genPoly_root (List.mem_range.1 hj)
  rw [fieldPow_two] at hroot
  exact polyEval_codeword h hroot

/-- Settles O51: RSBLK stored the EC codewords (`exec_rsblk_success`), so every syndrome is 0 (`syndromes_codeword`). -/
theorem codewordHasZeroSyndromes : Obligations.CodewordHasZeroSyndromes := by
  intro s t u pd pd' pa _ hexec herr hword hcount
  obtain ⟨hsize, hec⟩ := exec_rsblk_success hexec herr
  have he : u.u0 = s.u2 := congrArg BitVec.toNat hcount
  have hsyn : syndromes (u.polyReg pa) u.u0 = List.replicate s.u2 0#8 := by
    rw [he, State.polyReg, hword, ← bbBytes_eq_byteView]
    exact syndromes_codeword hec
  rw [Completes, exec_rssyn_of_le (by omega), hsyn, if_pos fun _ => List.eq_of_mem_replicate]
  rfl

end Sys2Proof.Machine
end

section
/-! RSRUN: the data codewords of the blocks, their EC codewords, and the interleaved stream in CWBUF. -/

namespace Sys2Proof.Machine

open Sys2Proof.Spec

/-! ### Blocks -/

/-- Slicing from byte `o` on, block by block, in the statement's form (43_reed_solomon.md R230). -/
theorem sliceBlocks_eq_map (bb : List Bool) (o : Nat) (bs : List Block) :
    sliceBlocks bb o bs = (List.range bs.length).map fun b => (List.range ((bs.map fun x => x.data).getD b 0)).map
      fun k => byteView bb (o + dataSum (bs.take b) + k) := by
  induction bs generalizing o with
  | nil => rfl
  | cons b bs ih =>
    rw [sliceBlocks, ih, bbBytes_eq_byteView, List.length_cons, List.range_succ_eq_map, List.map_cons, List.map_map]
    simp [Function.comp_def, dataSum, Nat.add_assoc]

theorem sliceBlocks_eq_blockData (bb : List Bool) (bs : List Block) :
    sliceBlocks bb 0 bs = (List.range bs.length).map (blockData bb bs) := by
  simp only [sliceBlocks_eq_map, Nat.zero_add]
  rfl

/-- The EC codewords of block `b` are those of its data codewords (43_reed_solomon.md R236). -/
theorem ecOf_of_ecBlocks {bs : List Block} {ds es : List (List Byte)} (h : ecBlocks bs ds = .ok es)
    (hlen : ds.length = bs.length) {b : Nat} (hb : b < bs.length) :
    ecOf (ds.getD b []) (bs[b].total - bs[b].data) = .ok (es.getD b []) := by
  induction bs generalizing ds es b with
  | nil => exact absurd hb (Nat.not_lt_zero b)
  | cons c bs ih =>
    obtain ⟨d, ds, rfl⟩ := List.exists_cons_of_length_eq_add_one hlen
    rw [ecBlocks] at h
    split at h
    · cases h
    · next e he =>
      split at h
      · cases h
      · next es' hes =>
        cases h
        cases b with
        | zero => exact he
        | succ b => exact ih hes (Nat.succ.inj hlen) (Nat.lt_of_succ_lt_succ hb)

/-! ### Columns -/

theorem foldl_max_length (xs : List (List Byte)) (m : Nat) :
    xs.foldl (fun m x => max m x.length) m = max m ((xs.map List.length).foldr max 0) := by
  induction xs generalizing m with
  | nil => exact (Nat.max_zero m).symm
  | cons x xs ih => rw [List.foldl_cons, ih, List.map_cons, List.foldr_cons, Nat.max_assoc]

theorem filterMap_getElem?_eq_map_filter (xs : List (List Byte)) (i : Nat) :
    (xs.filterMap fun x => x[i]?) = (xs.filter fun x => decide (i < x.length)).map fun x => x.getD i 0#8 := by
  induction xs with
  | nil => rfl
  | cons x xs ih =>
    by_cases hi : i < x.length
    · simp [hi, ih]
    · simp [hi, ih]

theorem interleave_eq_columns (xs : List (List Byte)) : interleave xs = columns xs := by
  simp only [interleave, columns, foldl_max_length, Nat.zero_max, filterMap_getElem?_eq_map_filter]

/-! ### CWBUF -/

/-- Byte `a` of the stream stands at `CWBUF[a]` (43_reed_solomon.md R236). -/
theorem withCodewords_cwbufByte_inside (s : State) {stream : List Byte} {a : Nat}
    (hlen : stream.length ≤ Config.cwbufBytes) (ha : a < stream.length) :
    (s.withCodewords stream).cwbufByte a = stream.getD a 0#8 := by
  have hread := s.cwbuf.read?_writeBytes_inside 0 stream ha
  rw [Nat.zero_add] at hread
  rw [State.cwbufByte, State.withCodewords_cwbuf, List.take_of_length_le hlen, hread, Option.getD_some,
    List.getD_eq_getElem _ _ ha]

/-! ### RSRUN -/

section
variable {s : State}

theorem exec_rsrun_sequence (h : s.blk = [] ∨ s.bb.length ≠ s.capacity) : exec .rsrun s = .next (s.fail .sequence) :=
  finish_check_fails_of fun hblk => finish_check_fails (h.resolve_left (mt List.length_eq_zero_iff.2 hblk))

/-- The stream of RSRUN: the data codewords, then the EC codewords (43_reed_solomon.md R237). -/
def rsStream (s : State) (es : List (List Byte)) : List Byte :=
  columns ((List.range s.blk.length).map (blockData s.bb s.blk)) ++ columns es

theorem exec_rsrun_of_ecBlocks {es : List (List Byte)} (hblk : s.blk ≠ []) (hfull : s.bb.length = s.capacity)
    (hes : ecBlocks s.blk (sliceBlocks s.bb 0 s.blk) = .ok es) :
    exec .rsrun s = .next ((s.withCodewords (rsStream s es)).withCount (rsStream s es).length).complete := by
  refine (finish_check_passes (mt List.length_eq_zero_iff.1 hblk)).trans <|
    (finish_check_passes (not_not.2 hfull)).trans ?_
  rw [hes, finish_ok]
  simp only [rsStream, interleave_eq_columns, sliceBlocks_eq_blockData]

theorem rsStream_length {es : List (List Byte)} (hs : s.Inv)
    (hsizes : es.map List.length = s.blk.map fun b => b.total - b.data) : (rsStream s es).length = totalSum s.blk := by
  rw [rsStream, ← sliceBlocks_eq_blockData, ← interleave_eq_columns, ← interleave_eq_columns]
  exact stream_length (sliceBlocks_sizes s.bb 0 s.blk) hsizes fun b hb => (hs.blockShape b hb).2.1

end

/-- Settles O49: the stream by `exec_rsrun_of_ecBlocks`, each block's EC codewords by `ecOf_of_ecBlocks`, and CWBUF,
which the invariant's bound on `sum(total)` lets hold the whole stream. -/
theorem rsrunWritesTheInterleavedStream : Obligations.RsrunWritesTheInterleavedStream := by
  refine ⟨by decide, fun s => ⟨exec_rsrun_sequence, fun hs hblk hfull => ?_⟩⟩
  have hslices := sliceBlocks_length s.bb 0 s.blk
  obtain ⟨es, hes, hsizes⟩ := ecBlocks_ok hslices
  have hlen := rsStream_length hs hsizes
  refine ⟨(s.withCodewords (rsStream s es)).cwbuf, es, ?_, ?_, fun b hb => ?_, hlen, fun a ha => ?_, fun a ha => ?_⟩
  · rw [← hlen]
    exact exec_rsrun_of_ecBlocks hblk hfull hes
  · simpa using congrArg List.length hsizes
  · have hec := ecOf_of_ecBlocks hes hslices hb
    rw [sliceBlocks_eq_blockData, List.getD_eq_getElem _ _ (by simpa), List.getElem_map, List.getElem_range] at hec
    exact isEc_of_ecOf hec
  · exact withCodewords_cwbufByte_inside s (hlen.trans_le hs.totalBound) (hlen ▸ ha)
  · exact withCodewords_cwbufByte (s := s) (rsStream s es) (hlen ▸ ha)

end Sys2Proof.Machine
end

section
/-! The BCH remainder: each pass of `bchLoop` clears the top bit, and adds a multiple of the generator
(44_format_info.md R262). -/

namespace Sys2Proof.Machine

open Sys2Proof.Spec

theorem lt_two_pow_bitLen (w : Nat) : w < 2 ^ bitLen w := by
  rw [bitLen]
  split_ifs with h
  · simp [h]
  · exact Nat.lt_log2_self

theorem two_pow_le_of_bitLen {w k : Nat} (h : bitLen w = k + 1) : 2 ^ k ≤ w := by
  rw [bitLen] at h
  split_ifs at h with h0
  rw [← Nat.succ.inj h]
  exact Nat.log2_self_le h0

theorem bitLen_le {w n : Nat} (h : w < 2 ^ n) : bitLen w ≤ n := by
  rw [bitLen]
  split_ifs with h0
  · exact Nat.zero_le n
  · exact (Nat.log2_lt h0).2 h

/-- Two words with the same top bit, added: that bit cancels. -/
theorem xor_lt_of_same_top {x y k : Nat} (hx : 2 ^ k ≤ x) (hx' : x < 2 ^ (k + 1)) (hy : 2 ^ k ≤ y)
    (hy' : y < 2 ^ (k + 1)) : x ^^^ y < 2 ^ k := by
  refine Nat.lt_pow_two_of_testBit _ fun i hi => ?_
  rw [Nat.testBit_xor]
  rcases hi.eq_or_lt with rfl | hlt
  · rw [Nat.testBit_of_two_pow_le_and_two_pow_add_one_gt hx hx',
      Nat.testBit_of_two_pow_le_and_two_pow_add_one_gt hy hy', Bool.xor_self]
  · have hpow : 2 ^ (k + 1) ≤ 2 ^ i := Nat.pow_le_pow_right (by decide) hlt
    rw [Nat.testBit_lt_two_pow (hx'.trans_le hpow), Nat.testBit_lt_two_pow (hy'.trans_le hpow), Bool.xor_self]

/-- One pass of `bchLoop` clears the top bit of its word (44_format_info.md R262). -/
theorem bchPass_lt {w k : Nat} (h : bitLen w = k + 11) : w ^^^ g15 <<< k < 2 ^ (k + 10) := by
  have hpow : 0 < 2 ^ k := Nat.two_pow_pos k
  refine xor_lt_of_same_top (two_pow_le_of_bitLen h) (h ▸ lt_two_pow_bitLen w) ?_ ?_ <;>
    simp only [g15, Nat.shiftLeft_eq, Nat.pow_add] <;> omega

/-- The generator times a power of `x` is the generator shifted. -/
theorem carryless_g15_two_pow : ∀ k < 8, carryless g15 (2 ^ k) = g15 <<< k := by decide

/-- The division by the generator: a quotient and a remainder of degree below 10 (44_format_info.md R262). At a fuel of
at most 18 the quotient has the degree below 8 that `carryless` asks for. -/
theorem bchLoop_division {fuel w : Nat} (hw : w < 2 ^ fuel) (hfuel : fuel ≤ 18) :
    bchLoop fuel w < 2 ^ 10 ∧ ∃ q < 2 ^ (fuel - 10), w = carryless g15 q ^^^ bchLoop fuel w := by
  induction fuel generalizing w with
  | zero =>
    obtain rfl : w = 0 := by omega
    exact ⟨by decide, 0, by decide, rfl⟩
  | succ fuel ih =>
    rw [bchLoop]
    split_ifs with hlong
    · obtain ⟨k, hk⟩ : ∃ k, bitLen w = k + 11 := ⟨bitLen w - 11, by omega⟩
      have hkfuel : k + 10 ≤ fuel := by have := bitLen_le hw; omega
      rw [hk, Nat.add_sub_cancel]
      have hpass := (bchPass_lt hk).trans_le (Nat.pow_le_pow_right (by decide) hkfuel)
      obtain ⟨hlt, q, hq, hdiv⟩ := ih hpass (by omega)
      refine ⟨hlt, q ^^^ 2 ^ k, Nat.xor_lt_two_pow ?_ ?_, ?_⟩
      · exact hq.trans_le (Nat.pow_le_pow_right (by decide) (by omega))
      · exact Nat.pow_lt_pow_right (by decide) (by omega)
      · rw [carryless_xor_right, carryless_g15_two_pow k (by omega), Nat.xor_right_comm, ← hdiv,
          Nat.xor_xor_cancel_right]
    · have hshort : w < 2 ^ 10 :=
        (lt_two_pow_bitLen w).trans_le (Nat.pow_le_pow_right (by decide) (by omega))
      exact ⟨hshort, 0, Nat.two_pow_pos _, by simp⟩

/-- `bchrem` is the remainder by the generator of a word of 15 bits (44_format_info.md R262). -/
theorem bchrem_division {w : Nat} (hw : w < 2 ^ 15) :
    bchrem w < 2 ^ 10 ∧ ∃ q < 2 ^ 5, w = carryless g15 q ^^^ bchrem w := by
  have hlen := bitLen_le hw
  obtain ⟨hlt, q, hq, hdiv⟩ := bchLoop_division (lt_two_pow_bitLen w) (by omega)
  exact ⟨hlt, q, hq.trans_le (Nat.pow_le_pow_right (by decide) (by omega)), hdiv⟩

end Sys2Proof.Machine
end

section
/-! The format unit: the table of format words, and the fields FMTCHK reads back from a word. -/

namespace Sys2Proof.Machine

open Sys2Proof.Spec

/-! ### The format words -/

/-- FMTENC's words are those of the printed table (44_format_info.md R264). -/
theorem formatWord_eq_table : ∀ ecl ≤ 3, ∀ m ≤ 7, formatWord ecl m = formatWords.getD (8 * ecl + m) 0 := by decide

theorem formatWord_mem_formatWords {ecl m : Nat} (hecl : ecl ≤ 3) (hm : m ≤ 7) : formatWord ecl m ∈ formatWords := by
  have hlen : formatWords.length = 32 := rfl
  rw [formatWord_eq_table ecl hecl m hm, List.getD_eq_getElem _ _ (by omega)]
  exact List.getElem_mem _

theorem lt_of_mem_formatWords : ∀ w ∈ formatWords, w < 2 ^ 15 := by decide

/-- The words of syndrome 0 are the 32 format words: the masked multiples of the generator (44_format_info.md R263). -/
theorem bchrem_unmask_eq_zero_iff {w : Nat} (hw : w < 2 ^ 15) : bchrem (w ^^^ fmtMask) = 0 ↔ w ∈ formatWords := by
  have hwords : ∀ w ∈ formatWords, bchrem (w ^^^ fmtMask) = 0 := by decide
  have hmultiples : ∀ q < 2 ^ 5, carryless g15 q ^^^ fmtMask ∈ formatWords := by decide
  refine ⟨fun hzero => ?_, hwords w⟩
  obtain ⟨-, q, hq, hdiv⟩ := bchrem_division (Nat.xor_lt_two_pow hw (by decide : fmtMask < 2 ^ 15))
  rw [hzero, Nat.xor_zero] at hdiv
  rw [← Nat.xor_xor_cancel_right w fmtMask, hdiv]
  exact hmultiples q hq

/-! ### The fields of FMTCHK's result -/

theorem or_shiftLeft_eq_add {x i : Nat} (h : x < 2 ^ i) (y : Nat) : x ||| y <<< i = x + 2 ^ i * y := by
  rw [Nat.or_comm, ← Nat.shiftLeft_add_eq_or_of_lt h, Nat.shiftLeft_eq, Nat.mul_comm, Nat.add_comm]

/-- The level bits are the ECL with its low bit complemented (44_format_info.md R261). -/
theorem fmtLevelBits_eq_xor : ∀ ecl ≤ 3, fmtLevelBits ecl = ecl ^^^ 1 := by decide

/-- `FMT_ECL_OF` complements the low bit again (44_format_info.md R261). -/
theorem fmtEclOf_eq_xor : ∀ lv < 4, fmtEclOf lv = lv ^^^ 1 := by decide

/-- The fields of FMTCHK's result as a sum (44_format_info.md R263). -/
theorem formatCheck_eq_sum {w u : Nat} (hw : w < 2 ^ 15) (hu : w ^^^ fmtMask = u) :
    formatCheck w = bchrem u + 2 ^ 10 * (u / 2 ^ 10 % 8) + 2 ^ 13 * (u / 2 ^ 13) + 2 ^ 16 * (u / 2 ^ 13 ^^^ 1) +
      (if bchrem u = 0 then 2 ^ 31 else 0) := by
  have hu15 : u < 2 ^ 15 := hu ▸ Nat.xor_lt_two_pow hw (by decide)
  have hlv : u / 2 ^ 13 < 4 := by omega
  have hecl : u / 2 ^ 13 ^^^ 1 < 2 ^ 2 := Nat.xor_lt_two_pow hlv (by decide)
  have hsyn : bchrem u < 2 ^ 10 := (bchrem_division hu15).1
  simp only [formatCheck, hu, Nat.mod_eq_of_lt hlv, fmtEclOf_eq_xor _ hlv]
  rw [or_shiftLeft_eq_add (i := 10) hsyn, or_shiftLeft_eq_add (i := 13) (by omega),
    or_shiftLeft_eq_add (i := 16) (by omega), or_shiftLeft_eq_add (i := 31) (by omega), mul_ite, Nat.mul_one,
    Nat.mul_zero]

/-- Unmasking a format word uncovers its level bits and its mask above the BCH bits (44_format_info.md R262). -/
theorem formatWord_unmask {ecl m : Nat} (hecl : ecl ≤ 3) (hm : m ≤ 7) : ∃ r < 2 ^ 10,
    formatWord ecl m ^^^ fmtMask = r + 2 ^ 10 * (m + 2 ^ 3 * (ecl ^^^ 1)) := by
  have hlv : ecl ^^^ 1 < 2 ^ 2 := Nat.xor_lt_two_pow (Nat.lt_succ_of_le hecl) (by decide)
  have hdata : fmtLevelBits ecl <<< 3 ||| m = m + 2 ^ 3 * (ecl ^^^ 1) := by
    rw [fmtLevelBits_eq_xor ecl hecl, Nat.or_comm, or_shiftLeft_eq_add (Nat.lt_succ_of_le hm)]
  have hrem := (bchrem_division (w := (m + 2 ^ 3 * (ecl ^^^ 1)) <<< 10) (by rw [Nat.shiftLeft_eq]; omega)).1
  refine ⟨_, hrem, ?_⟩
  simp only [formatWord, hdata]
  rw [Nat.xor_xor_cancel_right, Nat.or_comm, or_shiftLeft_eq_add hrem]

/-- FMTCHK's result for a format word: VALID, the ECL, the level bits and the mask, at syndrome 0
(44_format_info.md R262, R263). -/
theorem formatCheck_formatWord {ecl m : Nat} (hecl : ecl ≤ 3) (hm : m ≤ 7) :
    formatCheck (formatWord ecl m) = 2 ^ 10 * m + 2 ^ 13 * (ecl ^^^ 1) + 2 ^ 16 * ecl + 2 ^ 31 := by
  have hmem := formatWord_mem_formatWords hecl hm
  have hlt := lt_of_mem_formatWords _ hmem
  obtain ⟨r, hr, hunmask⟩ := formatWord_unmask hecl hm
  have hsyn := (bchrem_unmask_eq_zero_iff hlt).2 hmem
  rw [hunmask] at hsyn
  have hmask : (r + 2 ^ 10 * (m + 2 ^ 3 * (ecl ^^^ 1))) / 2 ^ 10 % 8 = m := by omega
  have hlevel : (r + 2 ^ 10 * (m + 2 ^ 3 * (ecl ^^^ 1))) / 2 ^ 13 = ecl ^^^ 1 := by omega
  rw [formatCheck_eq_sum hlt hunmask, hsyn, hmask, hlevel, Nat.xor_xor_cancel_right, if_pos rfl, Nat.zero_add]

/-- The fields of a result with VALID set and syndrome 0, read from their bits (44_format_info.md R263). -/
theorem formatFields_read {n ecl lv m : Nat} (hecl : ecl ≤ 3) (hm : m ≤ 7) (hlv : lv < 2 ^ 2)
    (hn : n = 2 ^ 10 * m + 2 ^ 13 * lv + 2 ^ 16 * ecl + 2 ^ 31) :
    (BitVec.ofNat 32 n).getLsbD 31 = true ∧ (BitVec.ofNat 32 n).extractLsb' 0 10 = 0#10 ∧
      ((BitVec.ofNat 32 n).extractLsb' 10 3).toNat = m ∧ ((BitVec.ofNat 32 n).extractLsb' 16 2).toNat = ecl := by
  have hlt : n % 2 ^ 32 = n := Nat.mod_eq_of_lt (by omega)
  simp only [← BitVec.toNat_inj, BitVec.extractLsb'_toNat, BitVec.getLsbD, BitVec.toNat_ofNat, hlt,
    Nat.testBit_eq_decide_div_mod_eq, Nat.shiftRight_eq_div_pow, decide_eq_true_eq]
  refine ⟨?_, ?_, ?_, ?_⟩ <;> omega

/-! ### What the two commands answer -/

section
variable {s : State}

theorem exec_fmtenc_of_le (h0 : s.u0 ≤ 3) (h1 : s.u1 ≤ 7) :
    exec .fmtenc s = .next (s.withCount (formatWord s.u0 s.u1)).complete :=
  (finish_check_passes (not_lt.2 h0)).trans (finish_check_passes (not_lt.2 h1))

theorem exec_fmtenc_domain (h : 3 < s.u0 ∨ 7 < s.u1) : exec .fmtenc s = .next (s.fail .domain) :=
  finish_check_fails_of fun hecl => finish_check_fails (h.resolve_left hecl)

theorem exec_fmtchk_of_le (h : s.u0 ≤ 0x7FFF) : exec .fmtchk s = .next (s.withCount (formatCheck s.u0)).complete :=
  finish_check_passes (not_lt.2 h)

end

/-! ### The obligations -/

/-- Settles O53: past its checks FMTENC returns `formatWord`, which `formatWord_eq_table` finds in the table. -/
theorem fmtencReturnsTheFormatWord : Obligations.FmtencReturnsTheFormatWord := by
  refine ⟨rfl, fun s => ⟨fun hecl hm => ?_, exec_fmtenc_domain⟩⟩
  rw [Completes, exec_fmtenc_of_le hecl hm, formatWord_eq_table _ hecl _ hm]
  rfl

/-- Settles O54: syndrome and quotient by `bchrem_division`, the fields by `formatCheck_eq_sum`, and VALID by
`bchrem_unmask_eq_zero_iff`. -/
theorem fmtchkReturnsSyndromeAndFields : Obligations.FmtchkReturnsSyndromeAndFields := by
  refine ⟨rfl, fun s => ⟨fun h => ?_, finish_check_fails⟩⟩
  have hw : s.u0 < 2 ^ 15 := Nat.lt_succ_of_le h
  obtain ⟨hsyn, q, hq, hdiv⟩ := bchrem_division (Nat.xor_lt_two_pow hw (by decide : fmtMask < 2 ^ 15))
  refine ⟨bchrem (s.u0 ^^^ fmtMask), q, ?_, hsyn, hq, hdiv, bchrem_unmask_eq_zero_iff hw⟩
  rw [Completes, exec_fmtchk_of_le h, formatCheck_eq_sum hw rfl]
  rfl

/-- Settles O55: FMTCHK reads FMTENC's word (`formatCheck_formatWord`), and `formatFields_read` takes its fields. -/
theorem formatWordsDecodeBack : Obligations.FormatWordsDecodeBack := by
  intro s t u (hecl : s.u0 ≤ 3) (hm : s.u1 ≤ 7) henc hu
  have hlt := lt_of_mem_formatWords _ (formatWord_mem_formatWords hecl hm)
  cases (exec_fmtenc_of_le hecl hm).symm.trans henc
  have hword : u.u0 = formatWord s.u0 s.u1 := (congrArg BitVec.toNat hu).trans (Nat.mod_eq_of_lt (by omega))
  refine ⟨BitVec.ofNat 32 (formatCheck u.u0), exec_fmtchk_of_le (by omega), ?_⟩
  rw [hword]
  exact formatFields_read hecl hm (Nat.xor_lt_two_pow (Nat.lt_succ_of_le hecl) (by decide))
    (formatCheck_formatWord hecl hm)

end Sys2Proof.Machine
end

section
/-! The engine's turn, and host writes of CMD. -/

namespace Sys2Proof.Machine

/-- The state in which the word of `i` is fetched has that word accepted and its step next (30_encoding.md R120). -/
theorem withFetchWord_encode (s : State) (i : Instr) :
    s.withFetchWord 32 (encode i).toNat = s.withPending (encode i) := by
  rw [State.withFetchWord, Nat.mod_eq_of_lt (encode i).isLt, BitVec.ofNat_toNat, BitVec.setWidth_eq]

/-- Settles O4: `step_of_engineTurn`, for the fetched word of a command by `decode_encode`. -/
theorem stepRunsThePendingCommand : Obligations.StepRunsThePendingCommand := by
  refine ⟨fun s i hbusy hturn => step_of_engineTurn ((engineTurn_iff s).2 ⟨hbusy, hturn⟩), fun s i => ?_⟩
  rw [withFetchWord_encode]
  exact step_of_engineTurn ((engineTurn_iff _).2 ⟨rfl, .inl rfl⟩) (decode_encode i)

section
variable {s : State} (w : Word)

/-- While BUSY = 1 a CMD write only sets OVR (60_exceptions.md R301 item 1). -/
theorem writeCmd_busy (hbusy : s.busy = true) : s.writeCmd w = s.overrun := if_pos hbusy

/-- While ERR = 1 an idle QRE ignores a CMD write (60_exceptions.md R301 item 2). -/
theorem writeCmd_error (hidle : s.busy = false) (herr : s.err = true) : s.writeCmd w = s := by
  rw [State.writeCmd, hidle, herr]
  rfl

/-- An acceptance clears DONE, and IRQ with it (10_state.md R41). -/
theorem accept_irq : (s.accept w).irq = false := Bool.and_false _

end

/-- Settles O8: the cases of a dropped write, and `hostWrite_cmd_accept` for the third. -/
theorem commandWriteIsAcceptedOrDropped : Obligations.CommandWriteIsAcceptedOrDropped := by
  intro s addr w haddr
  rw [hostWrite_cmd s haddr]
  refine ⟨writeCmd_busy w, writeCmd_error w, fun hidle herr => ?_⟩
  rw [← hostWrite_cmd s (addr := 0x000C#14) (by decide), hostWrite_cmd_accept hidle herr]
  exact ⟨accept_irq w, _, _, rfl, Nat.lt_succ_self s.free⟩

end Sys2Proof.Machine
end

section
/-! Dropped writes and the overrun flag: what sets OVR, and the only inputs that clear it. -/

namespace Sys2Proof.Machine

section
variable {s : State}

/-- While BUSY = 1 a write of CMD, of an ARG register or of INBUF only sets OVR (60_exceptions.md R302). -/
theorem hostWrite_overrun (hbusy : s.busy = true) {addr : Addr} (v : Word)
    (h : (addr &&& 0x3FFC#14) ∈ [0x000C#14, 0x0010#14, 0x0014#14, 0x0018#14, 0x001C#14] ∨
      (0x1000 ≤ addr.toNat ∧ addr.toNat ≤ 0x1FFF)) : s.hostWrite addr v = s.overrun := by
  rcases h with hreg | ⟨h1, h2⟩
  · rw [State.hostWrite]
    simp only [List.mem_cons, List.not_mem_nil, or_false] at hreg
    rcases hreg with h | h | h | h | h <;> rw [target_of_aligned h] <;> exact if_pos hbusy
  · exact hostWrite_inbuf_busy hbusy (target_inbuf_window h1 h2) v

/-- Only the offsets of the CTRL word reach CTRL (10_state.md R30). -/
theorem aligned_of_target_ctrl {addr : Addr} (h : target addr = .ctrl) : addr &&& 0x3FFC#14 = 0x0004#14 :=
  by_contra fun hne => target_ne (t := .ctrl) nofun hne h

/-- CLRERR clears OVR (10_state.md R33). -/
theorem writeCtrl_ovr_of_clearErr {v : Word} (h : v.getLsbD 1 = true) : (s.writeCtrl v).ovr = false := by
  rw [writeCtrl_eq, State.ctrlClearErr, if_pos h]
  rfl

/-- A CTRL write without SRST and CLRERR leaves OVR (10_state.md R32 to R35). -/
theorem writeCtrl_ovr_eq {v : Word} (h0 : v.getLsbD 0 = false) (h1 : v.getLsbD 1 = false) :
    (s.writeCtrl v).ovr = s.ovr := by
  simp only [writeCtrl_eq, State.ctrlClearErr, State.ctrlSoftReset, h0, h1, Bool.false_eq_true, if_false]

/-- A CMD write never clears OVR (60_exceptions.md R301). -/
theorem writeCmd_ovr (hovr : s.ovr = true) (w : Word) : (s.writeCmd w).ovr = true := by
  unfold State.writeCmd
  split_ifs
  · rfl
  · exact hovr
  · exact hovr

/-- A host read leaves OVR (20_memory.md R90). -/
theorem hostRead_ovr (addr : Addr) : (s.hostRead addr).ovr = s.ovr := by
  rcases hostRead_cases s addr with ⟨v, _, hr⟩ | ⟨_, hr⟩ <;> rw [hr]

/-- A host write that clears OVR is a CTRL write with SRST or CLRERR (60_exceptions.md R302). -/
theorem hostWrite_clears_ovr (hovr : s.ovr = true) {addr : Addr} {v : Word} (h : (s.hostWrite addr v).ovr = false) :
    addr &&& 0x3FFC#14 = 0x0004#14 ∧ (v.getLsbD 0 = true ∨ v.getLsbD 1 = true) := by
  unfold State.hostWrite at h
  rcases writeTarget_cases s (target addr) v with
    ⟨hctrl, hw⟩ | ⟨_, hw⟩ | hw | ⟨_, hw⟩ | ⟨_, a, b, c, d, hw⟩ | ⟨_, b, _, hw⟩ <;> rw [hw] at h
  · refine ⟨aligned_of_target_ctrl hctrl, by_contra fun hnone => ?_⟩
    obtain ⟨h0, h1⟩ := not_or.1 hnone
    rw [writeCtrl_ovr_eq (Bool.eq_false_iff.2 h0) (Bool.eq_false_iff.2 h1)] at h
    exact absurd (hovr.symm.trans h) nofun
  · exact absurd ((writeCmd_ovr hovr v).symm.trans h) nofun
  · exact absurd (hovr.symm.trans h) nofun
  · exact absurd h nofun
  · exact absurd (hovr.symm.trans h) nofun
  · exact absurd (hovr.symm.trans h) nofun

/-- The inputs that clear OVR (60_exceptions.md R302, 70_reset_and_hazards.md R330, R331). -/
theorem receive_clears_ovr (hovr : s.ovr = true) {e : Input} (h : (s.receive e).ovr = false) :
    e = .hardReset ∨ ∃ addr v, e = .write addr v ∧ addr &&& 0x3FFC#14 = 0x0004#14 ∧
      (v.getLsbD 0 = true ∨ v.getLsbD 1 = true) := by
  cases e with
  | read addr => exact absurd (hovr.symm.trans ((hostRead_ovr addr).symm.trans h)) nofun
  | write addr v => exact .inr ⟨addr, v, rfl, hostWrite_clears_ovr hovr h⟩
  | hardReset => exact .inl rfl

/-- A step that is not an input's leaves OVR, so an input that clears it is the next one. -/
theorem step_clears_ovr {t : State} (h : step s = .next t) (hovr : s.ovr = true) (hclear : t.ovr = false) :
    ∃ e rest, s.inputs = e :: rest ∧ (({ s with inputs := rest, lag := s.lag - 1 } : State).receive e).ovr = false := by
  have hkept : t.ovr ≠ s.ovr := by rw [hovr, hclear]; nofun
  rcases step_cases h with ⟨_, i, _, he⟩ | ⟨_, _, rfl⟩ | ⟨_, _, rfl⟩ | ⟨_, e, rest, hi, rfl⟩
  · obtain ⟨_, _, _, _, _, _, _, rfl⟩ := exec_frame he
    exact absurd rfl hkept
  · exact absurd rfl hkept
  · exact absurd rfl hkept
  · exact ⟨e, rest, hi, hclear⟩

end

/-- Settles O9: the dropped writes by `hostWrite_overrun`, the fall of OVR by `step_clears_ovr` and
`receive_clears_ovr`, the ignored writes by `hostWrite_readOnly`. -/
theorem busyWritesAreDroppedWithOverrun : Obligations.BusyWritesAreDroppedWithOverrun := by
  refine ⟨fun s addr v hbusy => hostWrite_overrun hbusy v, fun s t h hovr hclear => ?_, fun s addr v haddr => ?_,
    fun s addr v => hostWrite_readOnly s v⟩
  · obtain ⟨e, rest, hi, he⟩ := step_clears_ovr h hovr hclear
    rcases receive_clears_ovr (s := { s with inputs := rest, lag := s.lag - 1 }) hovr he with rfl | ⟨addr, v, rfl, hctrl⟩
    · exact ⟨rest, .inl hi⟩
    · exact ⟨rest, .inr ⟨addr, v, hi, hctrl⟩⟩
  · rw [hostWrite_ctrl s haddr]
    exact ⟨by rw [writeCtrl_eq], writeCtrl_ovr_of_clearErr⟩

end Sys2Proof.Machine
end

section
/-! Failure is all or nothing, and CLRERR returns from it. -/

namespace Sys2Proof.Machine

open Sys2Proof.Spec

section
variable {i : Instr} {s t : State}

/-- A command fails, or it completes and leaves ERR, ERRCODE and OVR (60_exceptions.md R303, R304). -/
theorem exec_fails_or_completes (h : exec i s = .next t) :
    (∃ k, t = s.fail k) ∨
      (t.busy = false ∧ t.done = true ∧ t.err = s.err ∧ t.errcode = s.errcode ∧ t.ovr = s.ovr) := by
  rcases exec_cases h with hfail | ⟨u, hu, rfl⟩
  · exact .inl hfail
  · cases hu <;> exact .inr ⟨rfl, rfl, rfl, rfl, rfl⟩

/-- A command that raises ERR has failed. -/
theorem exec_fails_of_err (hs : s.err = false) (h : exec i s = .next t) (ht : t.err = true) : ∃ k, t = s.fail k := by
  rcases exec_fails_or_completes h with hfail | ⟨_, _, herr, _⟩
  · exact hfail
  · exact absurd (ht.symm.trans (herr.trans hs)) nofun

/-- CLRERR without SRST after a failure leaves the state before it, but for STATUS and IE (60_exceptions.md R309). -/
theorem writeCtrl_fail (k : ErrKind) {v : Word} (h0 : v.getLsbD 0 = false) (h1 : v.getLsbD 1 = true) :
    (s.fail k).writeCtrl v = { s with
      busy := false, done := !v.getLsbD 3, err := false, errcode := 0#4, ovr := false, ie := v.getLsbD 2 } := by
  rw [writeCtrl_eq]
  simp only [State.ctrlClearErr, State.ctrlSoftReset, h0, h1, Bool.false_eq_true, if_false, if_true]
  cases v.getLsbD 3 <;> rfl

end

theorem ErrKind.one_le_code (k : ErrKind) : 1 ≤ k.code.toNat := by cases k <;> decide

/-- Settles O22: the two ends of a command (`exec_fails_or_completes`), and the range of the codes. -/
theorem failureIsAllOrNothing : Obligations.FailureIsAllOrNothing := by
  intro i s t h
  rcases exec_fails_or_completes h with ⟨k, rfl⟩ | hdone
  · exact .inr ⟨k.code, k.one_le_code, k.code_le, rfl⟩
  · exact .inl hdone

/-- Settles O21: the failed state keeps all but STATUS, `writeCtrl_fail` gives the state CLRERR leaves, and the two CMD
writes find ERR = 0 and ERR = 1. -/
theorem clearErrorReturnsFromAFailure : Obligations.ClearErrorReturnsFromAFailure := by
  intro i s t v w hs h ht h0 h1
  obtain ⟨k, rfl⟩ := exec_fails_of_err hs h ht
  have hreturn := (hostWrite_ctrl (s.fail k) (addr := 0x0004#14) (by decide) v).trans (writeCtrl_fail k h0 h1)
  refine ⟨hreturn, ?_, ?_⟩
  · rw [hreturn, hostWrite_cmd_accept rfl rfl, State.accept_busy]
  · rw [hostWrite_cmd (s.fail k) (by decide), writeCmd_error w rfl rfl]

end Sys2Proof.Machine
end

section
/-! The codes each command can fail with (60_exceptions.md R306): no other code is possible, and each of them occurs. -/

namespace Sys2Proof.Machine

open Sys2Proof.Spec

/-! ### No other code -/

/-- The outcome `o` of a step at `s` is a failure with one of the codes, or a completion that leaves ERR. -/
def FailsWithin (codes : List (BitVec 4)) (s : State) (o : Host.Outcome State Fault Refusal) : Prop :=
  (∃ k : ErrKind, k.code ∈ codes ∧ o = .next (s.fail k)) ∨ ∃ u : State, u.err = s.err ∧ o = .next u.complete

section
variable {codes : List (BitVec 4)} {s : State}

theorem FailsWithin.ok {u : State} (h : u.err = s.err) : FailsWithin codes s (finish s (.ok u)) := .inr ⟨u, h, rfl⟩

theorem FailsWithin.error {k : ErrKind} (hk : k.code ∈ codes) : FailsWithin codes s (finish s (.error k)) :=
  .inl ⟨k, hk, rfl⟩

/-- A check of a command adds its own code. -/
theorem FailsWithin.check {c : Prop} [Decidable c] {k : ErrKind} {r : Except ErrKind State} (hk : k.code ∈ codes)
    (h : FailsWithin codes s (finish s r)) : FailsWithin codes s (finish s (if c then .error k else r)) := by
  by_cases hc : c
  · rw [finish_check_fails hc]; exact .error hk
  · rwa [finish_check_passes hc]

/-- A command whose only check is one for the code `k`. -/
theorem FailsWithin.oneCheck {c : Prop} [Decidable c] {k : ErrKind} {u : State} (hk : k.code ∈ codes)
    (hu : u.err = s.err) : FailsWithin codes s (finish s (if c then .error k else .ok u)) :=
  .check hk (.ok hu)

/-- A failure raises ERR, and a completion does not. -/
theorem FailsWithin.errcode_mem {o : Host.Outcome State Fault Refusal} {t : State} (h : FailsWithin codes s o)
    (hs : s.err = false) (ho : o = .next t) (ht : t.err = true) : t.errcode ∈ codes := by
  rcases h with ⟨k, hk, rfl⟩ | ⟨u, hu, rfl⟩ <;> cases ho
  · exact hk
  · exact absurd (ht.symm.trans (hu.trans hs)) nofun

end

section
variable (s : State)

theorem exec_glog_failsWithin : FailsWithin [1#4] s (exec .glog s) := by
  by_cases hdom : s.u0 < 1 ∨ 255 < s.u0
  · rw [exec_glog_domain hdom]; exact .error (.head _)
  · rw [exec_glog_of_mem (by omega) (by omega)]; exact .ok rfl

/-- PMOD ends with a remainder unless a leading coefficient is 0 (41_polynomial.md R169, R170). -/
theorem exec_pmod_failsWithin (pd pa pb : PReg) : FailsWithin [1#4] s (exec (.pmod pd pa pb) s) := by
  by_cases hdom : (s.polyReg pb).headD 0#8 = 0#8 ∨
      (s.polyReg pb).length ≤ (s.polyReg pa).length ∧ (s.polyReg pa).headD 0#8 = 0#8
  · rw [exec_pmod_domain hdom]; exact .error (.head _)
  · obtain ⟨hb0, ha⟩ := not_or.1 hdom
    obtain ⟨r, hr, -⟩ := polyMod_ok (mt List.length_eq_zero_iff.1 (ne_nil_of_head hb0)) hb0
      ((not_and_or.1 ha).imp_left not_le.1)
    rw [exec_pmod_of_ok hr]; exact .ok rfl

/-- SEG's payload fails only with DOMAIN, and its length only with RESOURCE (42_bit_buffer.md R199). -/
theorem exec_seg_failsWithin : FailsWithin [1#4, 4#4] s (exec .seg s) := by
  by_cases hargs : SegArguments s
  · rw [exec_seg_of_arguments hargs]
    cases payload s.u0 (segData s) with
    | none => exact .error (.head _)
    | some pay => exact .oneCheck (.tail _ (.head _)) rfl
  · rw [exec_seg_bad_arguments hargs]; exact .error (.head _)

/-- No layout of the table is too large for RESOURCE (60_exceptions.md R306). -/
theorem exec_blksel_failsWithin : FailsWithin [1#4] s (exec .blksel s) := by
  by_cases hdom : s.u0 < 1 ∨ 40 < s.u0 ∨ 3 < s.u1
  · rw [exec_blksel_domain hdom]; exact .error (.head _)
  · rw [exec_blksel_of_mem (by omega) (by omega) (by omega)]; exact .ok rfl

/-- The EC codewords of a block never fail (43_reed_solomon.md R235). -/
theorem exec_rsblk_failsWithin (pd : PReg) : FailsWithin [1#4] s (exec (.rsblk pd) s) := by
  refine .check (.head _) (.check (.head _) ?_)
  obtain ⟨ec, hec, -⟩ := ecOf_ok (s.bbRange s.u0 s.u1) s.u2
  rw [hec]; exact .ok rfl

/-- The EC codewords of a block list never fail (43_reed_solomon.md R236). -/
theorem exec_rsrun_failsWithin : FailsWithin [5#4] s (exec .rsrun s) := by
  refine .check (.head _) (.check (.head _) ?_)
  obtain ⟨es, hes, -⟩ := ecBlocks_ok (sliceBlocks_length s.bb 0 s.blk)
  rw [hes]; exact .ok rfl

/-- Every command fails only with its codes: those of its checks, in their order. -/
theorem exec_failsWithin (i : Instr) : FailsWithin (failureCodes i) s (exec i s) := by
  cases i with
  | nop | gexp | pclr | plen | pmov | bbclr | bblen | blkclr | capbits => exact .ok rfl
  | pget | peval | bbget | fmtchk | pnorm | pmul | pgen | bbbit | rssyn => exact .oneCheck (.head _) rfl
  | gmul | fmtenc => exact .check (.head _) (.oneCheck (.head _) rfl)
  | ppush | bbput => exact .check (.head _) (.oneCheck (.tail _ (.head _)) rfl)
  | blkadd =>
    exact .check (.head _) <| .check (.tail _ (.head _)) <| .check (.tail _ (.head _)) <|
      .oneCheck (.tail _ (.head _)) rfl
  | final => exact .check (.head _) (.oneCheck (.tail _ (.head _)) rfl)
  | glog => exact exec_glog_failsWithin s
  | pmod pd pa pb => exact exec_pmod_failsWithin s pd pa pb
  | seg => exact exec_seg_failsWithin s
  | blksel => exact exec_blksel_failsWithin s
  | rsblk pd => exact exec_rsblk_failsWithin s pd
  | rsrun => exact exec_rsrun_failsWithin s

end

/-! ### Each of them occurs -/

section
variable {s : State}

theorem exec_ppush_resource {pd : PReg} (h0 : s.u0 ≤ 255) (hfull : (s.polyReg pd).length = 512) :
    exec (.ppush pd) s = .next (s.fail .resource) :=
  (finish_check_passes (not_lt.2 h0)).trans (finish_check_fails hfull)

theorem exec_bbput_resource (h1 : s.u1 ≤ 32) (hfull : 32768 < s.bb.length + s.u1) :
    exec .bbput s = .next (s.fail .resource) :=
  (finish_check_passes (not_lt.2 h1)).trans (finish_check_fails hfull)

theorem exec_seg_resource (hargs : SegArguments s) {pay : List Bool} (hpay : payload s.u0 (segData s) = some pay)
    (hfull : 32768 ≤ s.bb.length) : exec .seg s = .next (s.fail .resource) := by
  rw [exec_seg_of_arguments hargs, hpay]
  refine finish_check_fails (lt_of_le_of_lt hfull (Nat.lt_add_of_pos_right ?_))
  rw [segment_length]
  omega

theorem exec_blkadd_resource (hshape : ¬ (s.u0 < 1 ∨ s.u2 < 1 ∨ s.u1 < s.u2 ∨ 255 < s.u1))
    (hfull : 128 < s.blk.length + s.u0) : exec .blkadd s = .next (s.fail .resource) :=
  (finish_check_passes hshape).trans (finish_check_fails hfull)

theorem exec_final_capacity (hblk : s.blk ≠ []) (hfull : s.capacity < s.bb.length) :
    exec .final s = .next (s.fail .capacity) :=
  (finish_check_passes (mt List.length_eq_zero_iff.1 hblk)).trans (finish_check_fails hfull)

end

/-- Every operand is outside its domain, and nothing is stored. -/
structure OperandsTooLarge (s : State) : Prop where
  op0 : 0x7FFF < s.u0
  op1 : 255 < s.u1
  noPoly : ∀ k, s.polyReg k = []
  noBits : s.bb = []

/-- The polynomial registers, the bit buffer and the block list are full, the bit buffer beyond the capacity of the block
list, and the operands are inside every domain: SEG's are one byte in Byte mode for version 1. -/
structure StorageFull (s : State) : Prop where
  poly : ∀ k, (s.polyReg k).length = 512
  bits : s.bb.length = 32768
  blocks : s.blk.length = 128
  capacity : s.capacity < 32768
  op0 : s.u0 = 2
  op1 : s.u1 = 1
  op2 : s.u2 = 1
  op3 : s.u3 = 1

section
variable {i : Instr} {s u : State}

theorem OperandsTooLarge.exec_domain (hs : OperandsTooLarge s) (h : 1#4 ∈ failureCodes i) :
    exec i s = .next (s.fail .domain) := by
  obtain ⟨h0, h1, hpoly, hbits⟩ := hs
  have hbyte : 255 < s.u0 := by omega
  cases i with
  | glog => exact exec_glog_domain (.inr hbyte)
  | gmul => exact exec_gmul_domain (.inl hbyte)
  | ppush | peval => exact finish_check_fails hbyte
  | pget pa => exact finish_check_fails (by rw [hpoly]; exact Nat.zero_le _)
  | pmod pd pa pb => exact exec_pmod_domain (.inl (by rw [hpoly]; rfl))
  | bbput => exact finish_check_fails (by omega)
  | bbget => exact finish_check_fails (by rw [hbits]; exact Nat.zero_le _)
  | seg => exact exec_seg_bad_arguments fun hargs => absurd hargs.mode (by omega)
  | blkadd => exact finish_check_fails (.inr (.inr (.inr h1)))
  | blksel => exact exec_blksel_domain (by omega)
  | rsblk => exact exec_rsblk_domain (.inl (by omega))
  | fmtenc => exact exec_fmtenc_domain (by omega)
  | fmtchk => exact finish_check_fails h0
  | _ => simp [failureCodes] at h

/-- PNORM, PGEN and RSSYN fail with RESOURCE on a large operand, all other commands on full storage. -/
theorem exec_resource (hs : OperandsTooLarge s) (hu : StorageFull u) (h : 4#4 ∈ failureCodes i) :
    exec i s = .next (s.fail .resource) ∨ exec i u = .next (u.fail .resource) := by
  have hlarge : 512 < s.u0 := by have := hs.op0; omega
  obtain ⟨hpoly, hbits, hblocks, -, h0, h1, h2, h3⟩ := hu
  cases i with
  | pnorm => exact .inl (finish_check_fails (Nat.lt_add_left _ hlarge))
  | pgen => exact .inl (finish_check_fails (Nat.lt_succ_of_lt hlarge))
  | rssyn => exact .inl (finish_check_fails hlarge)
  | ppush pd => exact .inr (exec_ppush_resource (by omega) (hpoly pd))
  | pmul pd pa pb =>
    have ha := hpoly pa
    have hb := hpoly pb
    exact .inr (exec_pmul_resource (List.ne_nil_of_length_pos (by omega)) (List.ne_nil_of_length_pos (by omega))
      (by omega))
  | bbput => exact .inr (exec_bbput_resource (by omega) (by omega))
  | bbbit => exact .inr (finish_check_fails (by rw [hbits]; decide))
  | seg =>
    have hpay : payload u.u0 (segData u) = some (packBytes (segData u)) := by rw [h0, payload_two]
    exact .inr (exec_seg_resource ⟨by omega, by omega, by omega, by omega⟩ hpay hbits.ge)
  | blkadd => exact .inr (exec_blkadd_resource (by omega) (by omega))
  | _ => simp [failureCodes] at h

/-- CAPACITY is a failure of FINAL alone (42_bit_buffer.md R205). -/
theorem StorageFull.exec_capacity (hs : StorageFull s) (h : 2#4 ∈ failureCodes i) :
    exec i s = .next (s.fail .capacity) := by
  cases i with
  | final =>
    exact exec_final_capacity (List.ne_nil_of_length_pos (by have := hs.blocks; omega)) (hs.bits ▸ hs.capacity)
  | _ => simp [failureCodes] at h

/-- Without a block list the commands that need one fail with SEQUENCE. -/
theorem exec_sequence_of_no_blocks (hs : s.blk = []) (h : 5#4 ∈ failureCodes i) :
    exec i s = .next (s.fail .sequence) := by
  cases i with
  | final => exact finish_check_fails (List.length_eq_zero_iff.2 hs)
  | rsrun => exact exec_rsrun_sequence (.inl hs)
  | _ => simp [failureCodes] at h

/-- ILLEGAL, the code 3, is a failure of a word and not of a command (60_exceptions.md R300). -/
theorem mem_of_mem_failureCodes {k : BitVec 4} (h : k ∈ failureCodes i) : k ∈ [1#4, 2#4, 4#4, 5#4] := by
  unfold failureCodes at h
  split at h <;> revert k <;> decide

end

/-- The reset state with every ARG register at its largest value. -/
def largeOperands : State :=
  { State.reset with
    arg0 := 0xFFFFFFFF#32, arg1 := 0xFFFFFFFF#32, arg2 := 0xFFFFFFFF#32, arg3 := 0xFFFFFFFF#32 }

/-- A polynomial of POLY_CAP coefficients. -/
def fullPoly : List Byte := List.replicate Config.polyCap 1#8

/-- A state with full storage and no error. -/
def fullStorage : State :=
  { State.reset with
    arg0 := 2#32, arg1 := 1#32, arg2 := 1#32, arg3 := 1#32
    poly := { p0 := fullPoly, p1 := fullPoly, p2 := fullPoly, p3 := fullPoly }
    bb := List.replicate Config.bitbufBits false
    blk := List.replicate Config.blkMax { total := 1, data := 1 } }

theorem largeOperands_tooLarge : OperandsTooLarge largeOperands where
  op0 := by decide
  op1 := by decide
  noPoly k := by cases k <;> rfl
  noBits := rfl

theorem fullStorage_full : StorageFull fullStorage where
  poly k := by cases k <;> exact List.length_replicate
  bits := List.length_replicate
  blocks := List.length_replicate
  capacity := by
    rw [State.capacity, fullStorage, sumData, List.map_replicate, List.sum_replicate]
    decide
  op0 := rfl
  op1 := rfl
  op2 := rfl
  op3 := rfl

/-- Settles O23: no other code by `exec_failsWithin`; each code occurs with operands that are too large, with full
storage, or after reset. -/
theorem failureCodesOfEachCommand : Obligations.FailureCodesOfEachCommand := by
  refine ⟨fun i s t hs h => (exec_failsWithin s i).errcode_mem hs h, fun i k hk => ?_⟩
  have hcode := mem_of_mem_failureCodes hk
  simp only [List.mem_cons, List.not_mem_nil, or_false] at hcode
  rcases hcode with rfl | rfl | rfl | rfl
  · exact ⟨largeOperands, rfl, largeOperands_tooLarge.exec_domain hk⟩
  · exact ⟨fullStorage, rfl, fullStorage_full.exec_capacity hk⟩
  · rcases exec_resource largeOperands_tooLarge fullStorage_full hk with h | h
    · exact ⟨largeOperands, rfl, h⟩
    · exact ⟨fullStorage, rfl, h⟩
  · exact ⟨State.reset, rfl, exec_sequence_of_no_blocks rfl hk⟩

end Sys2Proof.Machine
end

section
/-! An accepted command completes: an input that is no reset leaves it in flight, and the engine's step ends it. -/

namespace Sys2Proof.Machine

section
variable {s t : State}

/-! ### Inputs while a command is in flight -/

/-- Between `s` and `t` a command in flight stays so: BUSY, the latency left and the inputs to come are the same. -/
def SameFlight (s t : State) : Prop := t.busy = s.busy ∧ t.lag = s.lag ∧ t.inputs = s.inputs

/-- A CTRL write without SRST leaves a command in flight (10_state.md R33 to R35). -/
theorem sameFlight_writeCtrl {v : Word} (h : v.getLsbD 0 = false) : SameFlight s (s.writeCtrl v) := by
  have hkeep : s.ctrlSoftReset v = s := if_neg (Bool.eq_false_iff.1 h)
  have hclear : SameFlight s (s.ctrlClearErr v) := by
    rw [State.ctrlClearErr, hkeep]
    split_ifs <;> exact ⟨rfl, rfl, rfl⟩
  rw [writeCtrl_eq]
  exact hclear

/-- While BUSY = 1 a CTRL write with SRST is the only host write that ends a command (60_exceptions.md R302). -/
theorem sameFlight_hostWrite (hbusy : s.busy = true) {addr : Addr} {v : Word}
    (h : (Input.write addr v).isReset = false) : SameFlight s (s.hostWrite addr v) := by
  unfold State.hostWrite
  rcases writeTarget_cases s (target addr) v with
    ⟨hctrl, hw⟩ | ⟨_, hw⟩ | hw | ⟨_, hw⟩ | ⟨hidle, _⟩ | ⟨hidle, _⟩
  · rw [hw]
    exact sameFlight_writeCtrl (by simpa [Input.isReset, aligned_of_target_ctrl hctrl] using h)
  · rw [hw, writeCmd_busy v hbusy]
    exact ⟨rfl, rfl, rfl⟩
  · rw [hw]
    exact ⟨rfl, rfl, rfl⟩
  · rw [hw]
    exact ⟨rfl, rfl, rfl⟩
  · exact absurd (hbusy.symm.trans hidle) nofun
  · exact absurd (hbusy.symm.trans hidle) nofun

theorem sameFlight_hostRead (s : State) (addr : Addr) : SameFlight s (s.hostRead addr) := by
  obtain ⟨r, f, hread, -⟩ := hostRead_frame s addr
  rw [hread]
  exact ⟨rfl, rfl, rfl⟩

/-- Only a reset ends a command before its step (70_reset_and_hazards.md R346). -/
theorem sameFlight_receive (hbusy : s.busy = true) {e : Input} (h : e.isReset = false) : SameFlight s (s.receive e) := by
  cases e with
  | read addr => exact sameFlight_hostRead s addr
  | write addr v => exact sameFlight_hostWrite hbusy h
  | hardReset => exact nomatch h

/-! ### The engine's step, and the run to it -/

/-- The engine's step is a completion, successful or failed (60_exceptions.md R303, R304). -/
theorem step_completes (hturn : s.engineTurn = true) : ∃ t, step s = .next t ∧ t.busy = false ∧ t.done = true := by
  obtain ⟨t, h⟩ := step_answers s
  refine ⟨t, h, ?_⟩
  rcases step_cases h with ⟨_, i, _, he⟩ | ⟨_, _, rfl⟩ | ⟨hf, _⟩ | ⟨hf, _⟩
  · obtain ⟨_, _, _, _, _, _, _, rfl⟩ := exec_frame he
    exact ⟨rfl, rfl⟩
  · exact ⟨rfl, rfl⟩
  · exact absurd (hturn.symm.trans hf) nofun
  · exact absurd (hturn.symm.trans hf) nofun

/-- A run takes one step and goes on from the state it answers. -/
theorem run_succ_of_step (h : step s = .next t) (k : Nat) : Sys2Proof.core.run (k + 1) s = Sys2Proof.core.run k t := by
  have hstep : Sys2Proof.core.step s = .next t := h
  simp only [Host.Core.run, hstep]

theorem run_one_of_step (h : step s = .next t) : Sys2Proof.core.run 1 s = .next t := run_succ_of_step h 0

end

/-- Settles O6, by induction on the latency: at 0, or with no input left, the engine's step completes; each input
before it leaves the command in flight (`sameFlight_receive`), with one input less to wait for. -/
theorem acceptedCommandCompletes : Obligations.AcceptedCommandCompletes := by
  intro s hbusy hnoreset
  induction hlag : s.lag generalizing s with
  | zero =>
    obtain ⟨t, h, ht⟩ := step_completes ((engineTurn_iff s).2 ⟨hbusy, .inl hlag⟩)
    exact ⟨1, t, le_rfl, run_one_of_step h, ht⟩
  | succ n ih =>
    cases hin : s.inputs with
    | nil =>
      obtain ⟨t, h, ht⟩ := step_completes ((engineTurn_iff s).2 ⟨hbusy, .inr hin⟩)
      exact ⟨1, t, by omega, run_one_of_step h, ht⟩
    | cons e rest =>
      have hturn : s.engineTurn = false := by simp [State.engineTurn, hlag, hin]
      rw [hin, hlag, List.take_succ_cons, List.forall_mem_cons] at hnoreset
      obtain ⟨he, hrest⟩ := hnoreset
      obtain ⟨hb, hl, hi⟩ := sameFlight_receive (s := { s with inputs := rest, lag := s.lag - 1 }) hbusy he
      have hless := hl.trans (Nat.sub_eq_of_eq_add hlag)
      obtain ⟨k, t, hk, hrun, ht⟩ := ih _ (hb.trans hbusy) (by rw [hi, hless]; exact hrest) hless
      exact ⟨k + 1, t, by omega, (run_succ_of_step (step_of_input hturn hin) k).trans hrun, ht⟩

end Sys2Proof.Machine
end

section
/-! The resets: the state each of them leaves, and the bytes the buffers show afterwards. -/

namespace Sys2Proof.Machine

section
variable {s : State}

/-! ### Soft reset -/

/-- A CTRL write with SRST is a soft reset and then a write of IE (70_reset_and_hazards.md R331). -/
theorem writeCtrl_of_softReset (s : State) {v : Word} (h : v.getLsbD 0 = true) :
    s.writeCtrl v = { s.softReset with ie := v.getLsbD 2 } := by
  have hdone : (if v.getLsbD 3 then false else s.softReset.done) = s.softReset.done := by rw [softReset_done, ite_self]
  rw [writeCtrl_eq, ctrlClearErr_of_softReset s h, hdone]

/-- A soft reset of an idle QRE keeps both buffers (70_reset_and_hazards.md R331). -/
theorem softReset_idle (hidle : s.busy = false) : s.softReset = s.cleared := if_neg (by simp [hidle])

/-- A soft reset while BUSY = 1 makes CWBUF unspecified (70_reset_and_hazards.md R331). -/
theorem softReset_busy (hbusy : s.busy = true) :
    s.softReset = { s.cleared with cwbuf := Memory.unwritten s.free, free := s.free + 1 } := if_pos hbusy

/-- Settles O11: the write is the soft reset and IE (`writeCtrl_of_softReset`), and the soft reset keeps CWBUF or makes
it unspecified. -/
theorem softResetKeepsOnlyTheBuffers : Obligations.SoftResetKeepsOnlyTheBuffers := by
  intro s addr v haddr hsrst
  rw [hostWrite_ctrl s haddr, writeCtrl_of_softReset s hsrst]
  cases hbusy : s.busy with
  | false =>
    rw [softReset_idle hbusy]
    exact ⟨s.cwbuf, s.free, rfl, fun _ => rfl, nofun, fun _ => rfl⟩
  | true =>
    rw [softReset_busy hbusy]
    exact ⟨Memory.unwritten s.free, s.free + 1, rfl, nofun, fun _ _ => rfl, fun _ => rfl⟩

end

/-! ### Hardware reset -/

/-- No command writes INBUF (10_state.md R48). -/
theorem exec_inbufByte {i : Instr} {s t : State} (h : exec i s = .next t) (a : Nat) : t.inbufByte a = s.inbufByte a := by
  obtain ⟨_, _, _, _, _, _, _, rfl⟩ := exec_frame h
  rfl

/-- Settles O12: `State.hardReset` field by field, and `exec_inbufByte` for the engine's step. -/
theorem hardResetSetsEveryElement : Obligations.HardResetSetsEveryElement := by
  intro s
  exact ⟨⟨rfl, BitVec.eq_of_toNat_eq (statusWord_toNat _), rfl, rfl, rfl, rfl, rfl, rfl, PolyFile.get_empty, rfl, rfl,
    rfl, fun _ => ⟨rfl, rfl⟩, hostRead_aligned rfl rfl, rfl⟩, fun _ _ => exec_inbufByte⟩

/-- Settles O56: everything is empty after reset, STATUS is 0, and the buffers are older than the counter. -/
theorem resetMeetsTheInvariant : Obligations.ResetMeetsTheInvariant where
  polyBound k := by rw [State.reset, PolyFile.get_empty]; exact Nat.zero_le _
  bitBound := Nat.zero_le _
  blockShape := blocksBounded_nil.shape
  blockCount := blocksBounded_nil.count
  dataBound := blocksBounded_nil.data
  totalBound := blocksBounded_nil.total
  inbufForm := Memory.unwritten_wf _ _
  cwbufForm := Memory.unwritten_wf _ _
  codeRange := Nat.zero_le _
  codeZero := iff_of_true rfl rfl
  busyNoErr := nofun
  busyNoDone := nofun
  epochsOld := ⟨Nat.zero_lt_one, Nat.zero_lt_one⟩

end Sys2Proof.Machine
end

section
/-! Reads while a command is in flight (70_reset_and_hazards.md R341). -/

namespace Sys2Proof.Machine

/-- While BUSY = 1 a read of RESULT gives a fresh free value (70_reset_and_hazards.md R341). -/
theorem hostRead_result_busy {s : State} (hbusy : s.busy = true) {addr : Addr} (h : addr &&& 0x3FFC#14 = 0x0020#14) :
    s.hostRead addr = { s with rdata := Config.unspecRead s.free, free := s.free + 1 } := by
  have hnone : s.readTarget (target addr) = none := by
    rw [target_of_aligned h]
    exact if_pos hbusy
  rw [State.hostRead, hnone]

/-- A register other than RESULT has a word to read in every state, BUSY or not. -/
theorem readTarget_registerAt (s : State) {a : Nat} (h : registerAt a ≠ .result) :
    ∃ v, s.readTarget (registerAt a) = some v := by
  unfold registerAt at h ⊢
  split at h
  case h_9 => exact absurd rfl h
  all_goals exact ⟨_, rfl⟩

/-- A read of a register other than RESULT changes nothing but the data on the bus, BUSY or not. -/
theorem hostRead_register (s : State) {addr : Addr} (hreg : addr.toNat < 0x1000) (h : addr &&& 0x3FFC#14 ≠ 0x0020#14) :
    s.hostRead addr = { s with rdata := (s.hostRead addr).rdata } := by
  have hresult : target addr ≠ .result := target_ne (t := .result) nofun h
  rw [target_register hreg] at hresult
  obtain ⟨v, hv⟩ := readTarget_registerAt s hresult
  rw [State.hostRead, target_register hreg, hv]

/-- Settles O19: the unspecified reads by `hostRead_result_busy` and `hostRead_window_busy`, the frame of the others by
`hostRead_register`, and their words as in any state (`registerReadsReturnTheirFields`). -/
theorem readsWhileBusyAreUnspecifiedOrCurrent : Obligations.ReadsWhileBusyAreUnspecifiedOrCurrent := by
  intro s addr hbusy
  refine ⟨fun h => h.elim (hostRead_result_busy hbusy) (hostRead_window_busy hbusy), fun hreg hne => ?_⟩
  obtain ⟨hid, hctrl, -, hcmd, h0, h1, h2, h3, -, hreserved⟩ := registerReadsReturnTheirFields s addr
  exact ⟨_, hostRead_register s hreg hne, fun h => hostRead_aligned h rfl, hctrl, hid, h0, h1, h2, h3,
    fun h => h.elim hcmd fun h24 => hreserved h24 (by omega)⟩

end Sys2Proof.Machine
end
